-- ==== Sys2Proof/Word.lean ====
section
/-! DEFINITION. The words of the block and the names of its coded states: 00_scope.md R9, R10; 10_state.md R23, R30, R35. -/

namespace Sys2Proof

/-- A byte: every wire field, host datum and data register is 8 bits, unsigned (R9, R10). -/
abbrev Byte := BitVec 8

/-- A host byte address (20_memory.md R60). -/
abbrev HostAddr := BitVec 10

/-- A host transaction word `w aaaaaaaaaa dddddddd` (30_encoding.md R88). -/
abbrev HostWord := BitVec 19

/-- The parser state, named for the byte it awaits (10_state.md R23). -/
inductive RxState where
  | hunt | pre2 | dir | len | cmd | data | csum | hold
deriving DecidableEq, Repr

/-- The encoder state, named for the byte it offers (10_state.md R35). -/
inductive TxState where
  | idle | pre1 | pre2 | dir | len | cmd | data | csum
deriving DecidableEq, Repr

/-- How the most recent frame ended (10_state.md R30). The codes 5, 6 and 7 are never produced and are
excluded from the type, as 93_implementation_defined.md U9 allows (log 13). -/
inductive RxResult where
  | none | ok | csumMismatch | lenOverflow | aborted
deriving DecidableEq, Repr

end Sys2Proof
end

