-- ==== Sys2Proof/Syntax.lean ====
section
/-! DEFINITION. The operations of the block: one constructor per row of spec/opcode_table.json, in the table's order
(30_encoding.md R99). -/

namespace Sys2Proof

/-- The operations a cycle is made of (30_encoding.md R88 to R91, R99). Operands:
* `d` is the write data; a read has none, because "a decoder ignores D when W = 0" (R88);
* `i` is the payload index `A[7:0]` of a window (R89);
* the operands of a CTRL command-bit row are the bits its pattern leaves open: `0hhhhhh1` for RX_ACK (R160),
  `0hhhhh1b` for RX_FLUSH (R161), `0hhhh1ll` for TX_START (R132), `1lllllll` for SOFT_RESET (R44);
* `b` is the byte the receive port transfers (R91). -/
inductive Instr where
  -- host accesses, 43_host_registers.md
  | rdCtrl
  | wrCtrl (d : Byte)
  | rdStatus
  | wrStatusIgnored (d : Byte)
  | rdErr
  | wrErr (d : Byte)
  | rdRxResult
  | wrRxResultIgnored (d : Byte)
  | rdRxDir
  | wrRxDirIgnored (d : Byte)
  | rdRxLen
  | wrRxLenIgnored (d : Byte)
  | rdRxCmd
  | wrRxCmdIgnored (d : Byte)
  | rdRxCsum
  | wrRxCsumIgnored (d : Byte)
  | rdTxLen
  | wrTxLen (d : Byte)
  | rdTxCmd
  | wrTxCmd (d : Byte)
  | rdTxCsum
  | wrTxCsumIgnored (d : Byte)
  | rdTxState
  | wrTxStateIgnored (d : Byte)
  | rdIdMaxlen
  | wrIdMaxlenIgnored (d : Byte)
  | rdIdPre1
  | wrIdPre1Ignored (d : Byte)
  | rdIdPre2
  | wrIdPre2Ignored (d : Byte)
  | rdIdDirtx
  | wrIdDirtxIgnored (d : Byte)
  | ctrlRxAck (hi : BitVec 6)
  | ctrlRxFlush (hi : BitVec 5) (b0 : BitVec 1)
  | ctrlTxStart (hi : BitVec 4) (lo : BitVec 2)
  | ctrlSoftReset (lo : BitVec 7)
  | rdRxBuf (i : Byte)
  | wrRxBufIgnored (i d : Byte)
  | rdTxBuf (i : Byte)
  | wrTxBuf (i d : Byte)
  -- receive transfers, 42_parser.md
  | rxByteHunt (b : Byte)
  | rxBytePre2 (b : Byte)
  | rxByteDir (b : Byte)
  | rxByteLen (b : Byte)
  | rxByteCmd (b : Byte)
  | rxByteData (b : Byte)
  | rxByteCsum (b : Byte)
  -- transmit transfers, 41_encoder.md
  | txBytePre1
  | txBytePre2
  | txByteDir
  | txByteLen
  | txByteCmd
  | txByteData
  | txByteCsum
  -- wire command ids, 44_wire_commands.md
  | cmdGetConfig
  | cmdSetConfig
  | cmdGetFix
  | cmdEchoTest
deriving DecidableEq, Repr

end Sys2Proof
end

