-- ==== Sys2Proof/WellFormed.lean ====
section
/-! DEFINITION. The checks on an operation that its operands' types do not make already. The CTRL rows overlap in the
table (30_encoding.md R99), and these checks choose one row for each CTRL write (log 9). -/

namespace Sys2Proof

/-- A CTRL write in which exactly one command acts: SOFT_RESET (then "every other bit of the same write is ignored", R44);
RX_FLUSH without TX_START ("RX_FLUSH together with RX_ACK acts as RX_FLUSH", R161); RX_ACK alone; TX_START alone. -/
def ctrlSingle (d : Byte) : Bool :=
  d.getLsbD 7 ||
    (d.getLsbD 1 && !(d.getLsbD 2)) ||
    (d.getLsbD 0 && !(d.getLsbD 1) && !(d.getLsbD 2)) ||
    (d.getLsbD 2 && !(d.getLsbD 0) && !(d.getLsbD 1))

/-- A command-bit row is well formed when its command is the one that acts, `WR_CTRL` when no command or two commands
act. Every operand of every other row is well formed. -/
def Instr.wellFormed : Instr → Bool
  | .wrCtrl d => !(ctrlSingle d)
  | .ctrlRxAck hi => !(hi.getLsbD 0) && !(hi.getLsbD 1)
  | .ctrlRxFlush hi _ => !(hi.getLsbD 0)
  | .ctrlTxStart _ lo => !(lo.getLsbD 0) && !(lo.getLsbD 1)
  | _ => true

end Sys2Proof
end

