-- ==== Sys2Proof/Decode.lean ====
section
/-! DEFINITION. Decoding and encoding the block's operations (30_encoding.md R88 to R99). -/

namespace Sys2Proof

/-- An operation as a word, by the table's formats (R88, R91, R99): a host transaction word, a receive byte, a transmit
transfer (it has no bits), or a wire command byte. -/
inductive OpWord where
  | host (w : HostWord)
  | rx (b : Byte)
  | tx
  | wire (c : Byte)
deriving DecidableEq, Repr

/-- Why a word is no row of the table. None of these is an error of the block. -/
inductive DecodeError where
  /-- A host access to 0x010 to 0x1FF matches no row (R92, R99); it has its effect all the same (log 12). -/
  | reservedAddress
  /-- "State HOLD has no RX_BYTE row, since no byte is accepted there" (R99). -/
  | notReady
  /-- The encoder offers nothing in IDLE (R114). -/
  | notValid
  /-- "Command bytes other than 195 to 198 have no contract in the source" (44_wire_commands.md R245). -/
  | noContract
deriving DecidableEq, Repr

/-- Field W (R88). -/
def wordWrite (w : HostWord) : Bool := w.getLsbD 18

/-- Field A (R88). -/
def wordAddr (w : HostWord) : HostAddr := w.extractLsb' 8 10

/-- Field D (R88). -/
def wordData (w : HostWord) : Byte := w.extractLsb' 0 8

/-- The region `A[9:8]` (R89). -/
def addrRegion (a : HostAddr) : BitVec 2 := a.extractLsb' 8 2

/-- The payload index or register number `A[7:0]` (R89). -/
def addrIndex (a : HostAddr) : Byte := a.extractLsb' 0 8

/-- The word with fields W, A, D (R88). -/
def hostWord (write : Bool) (a : HostAddr) (d : Byte) : HostWord := (BitVec.ofBool write ++ a) ++ d

/-- The data of the CTRL write that a command-bit row stands for (R44, R132, R160, R161). -/
def ctrlRxAckData (hi : BitVec 6) : Byte := (0#1 ++ hi) ++ 1#1

/-- See `ctrlRxAckData`. -/
def ctrlRxFlushData (hi : BitVec 5) (b0 : BitVec 1) : Byte := ((0#1 ++ hi) ++ 1#1) ++ b0

/-- See `ctrlRxAckData`. -/
def ctrlTxStartData (hi : BitVec 4) (lo : BitVec 2) : Byte := ((0#1 ++ hi) ++ 1#1) ++ lo

/-- See `ctrlRxAckData`. -/
def ctrlSoftResetData (lo : BitVec 7) : Byte := 1#1 ++ lo

/-- A CTRL write: the row of the one command that acts, or `WR_CTRL` (R99; log 9). -/
def decodeCtrl (d : Byte) : Instr :=
  if d.getLsbD 7 then .ctrlSoftReset (d.extractLsb' 0 7)
  else if d.getLsbD 1 && !(d.getLsbD 2) then .ctrlRxFlush (d.extractLsb' 2 5) (d.extractLsb' 0 1)
  else if d.getLsbD 0 && !(d.getLsbD 1) && !(d.getLsbD 2) then .ctrlRxAck (d.extractLsb' 1 6)
  else if d.getLsbD 2 && !(d.getLsbD 0) && !(d.getLsbD 1) then .ctrlTxStart (d.extractLsb' 3 4) (d.extractLsb' 0 2)
  else .wrCtrl d

/-- A read of register number `n` (R90); 0x10 and above are reserved (R89, R92). -/
def decodeRegRead (n : Byte) : Except DecodeError Instr :=
  match n.toNat with
  | 0 => .ok .rdCtrl
  | 1 => .ok .rdStatus
  | 2 => .ok .rdErr
  | 3 => .ok .rdRxResult
  | 4 => .ok .rdRxDir
  | 5 => .ok .rdRxLen
  | 6 => .ok .rdRxCmd
  | 7 => .ok .rdRxCsum
  | 8 => .ok .rdTxLen
  | 9 => .ok .rdTxCmd
  | 10 => .ok .rdTxCsum
  | 11 => .ok .rdTxState
  | 12 => .ok .rdIdMaxlen
  | 13 => .ok .rdIdPre1
  | 14 => .ok .rdIdPre2
  | 15 => .ok .rdIdDirtx
  | _ => .error .reservedAddress

/-- A write of `d` to register number `n` (R90); 0x10 and above are reserved (R89, R92). -/
def decodeRegWrite (n d : Byte) : Except DecodeError Instr :=
  match n.toNat with
  | 0 => .ok (decodeCtrl d)
  | 1 => .ok (.wrStatusIgnored d)
  | 2 => .ok (.wrErr d)
  | 3 => .ok (.wrRxResultIgnored d)
  | 4 => .ok (.wrRxDirIgnored d)
  | 5 => .ok (.wrRxLenIgnored d)
  | 6 => .ok (.wrRxCmdIgnored d)
  | 7 => .ok (.wrRxCsumIgnored d)
  | 8 => .ok (.wrTxLen d)
  | 9 => .ok (.wrTxCmd d)
  | 10 => .ok (.wrTxCsumIgnored d)
  | 11 => .ok (.wrTxStateIgnored d)
  | 12 => .ok (.wrIdMaxlenIgnored d)
  | 13 => .ok (.wrIdPre1Ignored d)
  | 14 => .ok (.wrIdPre2Ignored d)
  | 15 => .ok (.wrIdDirtxIgnored d)
  | _ => .error .reservedAddress

/-- The row of a host transaction word, by region (R89). -/
def decodeHost (w : HostWord) : Except DecodeError Instr :=
  let i := addrIndex (wordAddr w)
  let d := wordData w
  match (addrRegion (wordAddr w)).toNat with
  | 0 => if wordWrite w then decodeRegWrite i d else decodeRegRead i
  | 1 => .error .reservedAddress
  | 2 => .ok (if wordWrite w then .wrRxBufIgnored i d else .rdRxBuf i)
  | _ => .ok (if wordWrite w then .wrTxBuf i d else .rdTxBuf i)

/-- The row of an accepted byte, by the parser's state (R91, R99; 42_parser.md R151). -/
def decodeRx (st : RxState) (b : Byte) : Except DecodeError Instr :=
  match st with
  | .hunt => .ok (.rxByteHunt b)
  | .pre2 => .ok (.rxBytePre2 b)
  | .dir => .ok (.rxByteDir b)
  | .len => .ok (.rxByteLen b)
  | .cmd => .ok (.rxByteCmd b)
  | .data => .ok (.rxByteData b)
  | .csum => .ok (.rxByteCsum b)
  | .hold => .error .notReady

/-- The row of a taken byte, by the encoder's state (R91, R99). -/
def decodeTx (st : TxState) : Except DecodeError Instr :=
  match st with
  | .idle => .error .notValid
  | .pre1 => .ok .txBytePre1
  | .pre2 => .ok .txBytePre2
  | .dir => .ok .txByteDir
  | .len => .ok .txByteLen
  | .cmd => .ok .txByteCmd
  | .data => .ok .txByteData
  | .csum => .ok .txByteCsum

/-- The row of a wire command byte (44_wire_commands.md R240). -/
def decodeWire (c : Byte) : Except DecodeError Instr :=
  match c.toNat with
  | 195 => .ok .cmdGetConfig
  | 196 => .ok .cmdSetConfig
  | 197 => .ok .cmdGetFix
  | 198 => .ok .cmdEchoTest
  | _ => .error .noContract

/-- The row of an operation word, in the engine states that select a stream row (R99). -/
def decode (rx : RxState) (tx : TxState) : OpWord → Except DecodeError Instr
  | .host w => decodeHost w
  | .rx b => decodeRx rx b
  | .tx => decodeTx tx
  | .wire c => decodeWire c

/-- The states that select a stream row: "a stream row also names, in `fields.state`, the engine state that selects its
arm" (R99). Other rows need no state. -/
def rowSelected (rx : RxState) (tx : TxState) : Instr → Bool
  | .rxByteHunt _ => decide (rx = .hunt)
  | .rxBytePre2 _ => decide (rx = .pre2)
  | .rxByteDir _ => decide (rx = .dir)
  | .rxByteLen _ => decide (rx = .len)
  | .rxByteCmd _ => decide (rx = .cmd)
  | .rxByteData _ => decide (rx = .data)
  | .rxByteCsum _ => decide (rx = .csum)
  | .txBytePre1 => decide (tx = .pre1)
  | .txBytePre2 => decide (tx = .pre2)
  | .txByteDir => decide (tx = .dir)
  | .txByteLen => decide (tx = .len)
  | .txByteCmd => decide (tx = .cmd)
  | .txByteData => decide (tx = .data)
  | .txByteCsum => decide (tx = .csum)
  | _ => true

/-! ## The encoder of operations -/

/-- The word of an operation, written from the address map of R90 and the formats of R88 and R91. -/
def encode : Instr → OpWord
  | .rdCtrl => .host (hostWord false 0x0 0)
  | .wrCtrl d => .host (hostWord true 0x0 d)
  | .rdStatus => .host (hostWord false 0x1 0)
  | .wrStatusIgnored d => .host (hostWord true 0x1 d)
  | .rdErr => .host (hostWord false 0x2 0)
  | .wrErr d => .host (hostWord true 0x2 d)
  | .rdRxResult => .host (hostWord false 0x3 0)
  | .wrRxResultIgnored d => .host (hostWord true 0x3 d)
  | .rdRxDir => .host (hostWord false 0x4 0)
  | .wrRxDirIgnored d => .host (hostWord true 0x4 d)
  | .rdRxLen => .host (hostWord false 0x5 0)
  | .wrRxLenIgnored d => .host (hostWord true 0x5 d)
  | .rdRxCmd => .host (hostWord false 0x6 0)
  | .wrRxCmdIgnored d => .host (hostWord true 0x6 d)
  | .rdRxCsum => .host (hostWord false 0x7 0)
  | .wrRxCsumIgnored d => .host (hostWord true 0x7 d)
  | .rdTxLen => .host (hostWord false 0x8 0)
  | .wrTxLen d => .host (hostWord true 0x8 d)
  | .rdTxCmd => .host (hostWord false 0x9 0)
  | .wrTxCmd d => .host (hostWord true 0x9 d)
  | .rdTxCsum => .host (hostWord false 0xa 0)
  | .wrTxCsumIgnored d => .host (hostWord true 0xa d)
  | .rdTxState => .host (hostWord false 0xb 0)
  | .wrTxStateIgnored d => .host (hostWord true 0xb d)
  | .rdIdMaxlen => .host (hostWord false 0xc 0)
  | .wrIdMaxlenIgnored d => .host (hostWord true 0xc d)
  | .rdIdPre1 => .host (hostWord false 0xd 0)
  | .wrIdPre1Ignored d => .host (hostWord true 0xd d)
  | .rdIdPre2 => .host (hostWord false 0xe 0)
  | .wrIdPre2Ignored d => .host (hostWord true 0xe d)
  | .rdIdDirtx => .host (hostWord false 0xf 0)
  | .wrIdDirtxIgnored d => .host (hostWord true 0xf d)
  | .ctrlRxAck hi => .host (hostWord true 0x0 (ctrlRxAckData hi))
  | .ctrlRxFlush hi b0 => .host (hostWord true 0x0 (ctrlRxFlushData hi b0))
  | .ctrlTxStart hi lo => .host (hostWord true 0x0 (ctrlTxStartData hi lo))
  | .ctrlSoftReset lo => .host (hostWord true 0x0 (ctrlSoftResetData lo))
  | .rdRxBuf i => .host (hostWord false (2#2 ++ i) 0)
  | .wrRxBufIgnored i d => .host (hostWord true (2#2 ++ i) d)
  | .rdTxBuf i => .host (hostWord false (3#2 ++ i) 0)
  | .wrTxBuf i d => .host (hostWord true (3#2 ++ i) d)
  | .rxByteHunt b => .rx b
  | .rxBytePre2 b => .rx b
  | .rxByteDir b => .rx b
  | .rxByteLen b => .rx b
  | .rxByteCmd b => .rx b
  | .rxByteData b => .rx b
  | .rxByteCsum b => .rx b
  | .txBytePre1 => .tx
  | .txBytePre2 => .tx
  | .txByteDir => .tx
  | .txByteLen => .tx
  | .txByteCmd => .tx
  | .txByteData => .tx
  | .txByteCsum => .tx
  | .cmdGetConfig => .wire 195
  | .cmdSetConfig => .wire 196
  | .cmdGetFix => .wire 197
  | .cmdEchoTest => .wire 198

/-! ## The table's rows -/

/-- A row's `format`, `match` and `mask` in opcode_table.json (R99). -/
inductive TableRow where
  | hostWord (pattern mask : HostWord)
  | rxByte (pattern mask : Byte)
  | txByte
  | wireCmdByte (pattern mask : Byte)
deriving DecidableEq, Repr

/-- The row an operation stands for, copied from opcode_table.json. -/
def tableRow : Instr → TableRow
  | .rdCtrl => .hostWord 0x00000 0x7FF00
  | .wrCtrl _ => .hostWord 0x40000 0x7FF00
  | .rdStatus => .hostWord 0x00100 0x7FF00
  | .wrStatusIgnored _ => .hostWord 0x40100 0x7FF00
  | .rdErr => .hostWord 0x00200 0x7FF00
  | .wrErr _ => .hostWord 0x40200 0x7FF00
  | .rdRxResult => .hostWord 0x00300 0x7FF00
  | .wrRxResultIgnored _ => .hostWord 0x40300 0x7FF00
  | .rdRxDir => .hostWord 0x00400 0x7FF00
  | .wrRxDirIgnored _ => .hostWord 0x40400 0x7FF00
  | .rdRxLen => .hostWord 0x00500 0x7FF00
  | .wrRxLenIgnored _ => .hostWord 0x40500 0x7FF00
  | .rdRxCmd => .hostWord 0x00600 0x7FF00
  | .wrRxCmdIgnored _ => .hostWord 0x40600 0x7FF00
  | .rdRxCsum => .hostWord 0x00700 0x7FF00
  | .wrRxCsumIgnored _ => .hostWord 0x40700 0x7FF00
  | .rdTxLen => .hostWord 0x00800 0x7FF00
  | .wrTxLen _ => .hostWord 0x40800 0x7FF00
  | .rdTxCmd => .hostWord 0x00900 0x7FF00
  | .wrTxCmd _ => .hostWord 0x40900 0x7FF00
  | .rdTxCsum => .hostWord 0x00A00 0x7FF00
  | .wrTxCsumIgnored _ => .hostWord 0x40A00 0x7FF00
  | .rdTxState => .hostWord 0x00B00 0x7FF00
  | .wrTxStateIgnored _ => .hostWord 0x40B00 0x7FF00
  | .rdIdMaxlen => .hostWord 0x00C00 0x7FF00
  | .wrIdMaxlenIgnored _ => .hostWord 0x40C00 0x7FF00
  | .rdIdPre1 => .hostWord 0x00D00 0x7FF00
  | .wrIdPre1Ignored _ => .hostWord 0x40D00 0x7FF00
  | .rdIdPre2 => .hostWord 0x00E00 0x7FF00
  | .wrIdPre2Ignored _ => .hostWord 0x40E00 0x7FF00
  | .rdIdDirtx => .hostWord 0x00F00 0x7FF00
  | .wrIdDirtxIgnored _ => .hostWord 0x40F00 0x7FF00
  | .ctrlRxAck _ => .hostWord 0x40001 0x7FF81
  | .ctrlRxFlush _ _ => .hostWord 0x40002 0x7FF82
  | .ctrlTxStart _ _ => .hostWord 0x40004 0x7FF84
  | .ctrlSoftReset _ => .hostWord 0x40080 0x7FF80
  | .rdRxBuf _ => .hostWord 0x20000 0x70000
  | .wrRxBufIgnored _ _ => .hostWord 0x60000 0x70000
  | .rdTxBuf _ => .hostWord 0x30000 0x70000
  | .wrTxBuf _ _ => .hostWord 0x70000 0x70000
  | .rxByteHunt _ => .rxByte 0x00 0x00
  | .rxBytePre2 _ => .rxByte 0x00 0x00
  | .rxByteDir _ => .rxByte 0x00 0x00
  | .rxByteLen _ => .rxByte 0x00 0x00
  | .rxByteCmd _ => .rxByte 0x00 0x00
  | .rxByteData _ => .rxByte 0x00 0x00
  | .rxByteCsum _ => .rxByte 0x00 0x00
  | .txBytePre1 => .txByte
  | .txBytePre2 => .txByte
  | .txByteDir => .txByte
  | .txByteLen => .txByte
  | .txByteCmd => .txByte
  | .txByteData => .txByte
  | .txByteCsum => .txByte
  | .cmdGetConfig => .wireCmdByte 0xC3 0xFF
  | .cmdSetConfig => .wireCmdByte 0xC4 0xFF
  | .cmdGetFix => .wireCmdByte 0xC5 0xFF
  | .cmdEchoTest => .wireCmdByte 0xC6 0xFF

/-- An operation word fits a row: same format, and the bits under the mask are the pattern (R99). A transmit transfer has
no bits. -/
def TableRow.fits : TableRow → OpWord → Bool
  | .hostWord p m, .host w => w &&& m == p
  | .rxByte p m, .rx b => b &&& m == p
  | .txByte, .tx => true
  | .wireCmdByte p m, .wire c => c &&& m == p
  | _, _ => false

/-! ## Words by the table's bits alone -/

/-- The operation word of `nbits` bits `w`, with the engine states that select its row. The table's formats have 19, 8
and 0 bits. Eight bits alone do not say the format nor the state: 0xC3 to 0xC6 are taken as wire command bytes, every
other byte as a receive byte in HUNT, and no bits as a transfer in PRE1 (log 14). -/
def tableWord (nbits w : Nat) : Option (OpWord × RxState × TxState) :=
  if nbits = 0 then some (.tx, .hunt, .pre1)
  else if nbits ≤ 8 then
    if w < 256 then
      match decodeWire (BitVec.ofNat 8 w) with
      | .ok _ => some (.wire (BitVec.ofNat 8 w), .hunt, .idle)
      | .error _ => some (.rx (BitVec.ofNat 8 w), .hunt, .idle)
    else none
  else if nbits ≤ 24 then
    if w < 524288 then some (.host (BitVec.ofNat 19 w), .hunt, .idle) else none
  else none

/-- The operation the decoder reads from `nbits` bits `w` of the table; `none` where it refuses. -/
def decodeTableWord (nbits w : Nat) : Option Instr :=
  match tableWord nbits w with
  | none => none
  | some (op, rx, tx) =>
    match decode rx tx op with
    | .ok i => some i
    | .error _ => none

end Sys2Proof
end

