-- ==== Sys2Proof/Config.lean ====
section
/-! DEFINITION. What one build of the block fixes (00_scope.md R5 to R8) and the values the spec leaves free. -/

namespace Sys2Proof.Config

/-- The build parameters, which "a model takes as arguments" (00_scope.md section 3). `maxPayload` is an integer
from 0 to 255 (R8), exactly the range of a byte. -/
structure Params where
  /-- `P_PRE1`, R5. -/
  pre1 : Byte
  /-- `P_PRE2`, R6; it may equal `P_PRE1`. -/
  pre2 : Byte
  /-- `P_DIR_TX`, R7. -/
  dirTx : Byte
  /-- `P_MAX_PAYLOAD`, R8. -/
  maxPayload : Byte
deriving DecidableEq, Repr

/-- The direction marker of the build in `State.reset`. The spec leaves it OPEN (R7, D6, U4), so it has no value here
(log 1). -/
opaque dirTx : Byte

/-- The default build: R5, R6 and R8 give the defaults, R7 gives none (log 1). -/
def params : Params := { pre1 := 0x24, pre2 := 0x4D, dirTx := dirTx, maxPayload := 128 }

/-- FREE VALUE: what byte `i` of `rx_buf` holds after hard reset number `n` when no frame has written it since
(70_reset_and_hazards.md R292, U1; log 5). -/
opaque rxUnspecified (n i : Nat) : Byte

/-- FREE VALUE: what the encoder offers for byte `i` of `tx_buf` when the host has not written it since hard reset
number `n` (41_encoder.md R131: it "has no defined value"; log 7). Sending it is a fault (U3). -/
opaque txUnwritten (n i : Nat) : Byte

/-- FREE VALUE: what `h_rdata` carries in the cycle of host write number `n`. The spec gives it a value in the cycle of a
read and where `h_en = 0` (40_cycle.md R111, R115), and none in the cycle of a write (log 15). -/
opaque writeReadData (n : Nat) : Byte

end Sys2Proof.Config
end

