-- ==== Sys2Proof/Machine/State.lean ====
section
/-! DEFINITION. The state of the block: the tuple of 10_state.md R20, beside it the model's own fields, and the state
after a hard reset. -/

namespace Sys2Proof.Machine

/-- A payload buffer: (index, byte) pairs, indices strictly rising. An index that is not listed holds no written byte
(log 5, log 6). -/
abbrev Memory := List Host.Cell

/-- The canonical form of a buffer: indices strictly rising. -/
def Memory.wf : Memory → Bool
  | [] => true
  | [_] => true
  | a :: b :: rest => decide (a.1 < b.1) && Memory.wf (b :: rest)

/-- The parser's registers (R23 to R34). -/
structure Parser where
  /-- `rx_state`, R23. -/
  state : RxState
  /-- `rx_dir`, R24. -/
  dir : Byte
  /-- `rx_len`, R25. -/
  len : Byte
  /-- `rx_cmd`, R26. -/
  cmd : Byte
  /-- `rx_csum`, R27. -/
  csum : Byte
  /-- `rx_acc`, R28. -/
  acc : Byte
  /-- `rx_idx`, R29. -/
  idx : Byte
  /-- `rx_result`, R30. -/
  result : RxResult
  /-- `sof_q`, R31. -/
  sofQ : Bool
  /-- `eof_q`, R32. -/
  eofQ : Bool
  /-- `rx_buf`, R34. -/
  buf : Memory
deriving DecidableEq, Repr

/-- The encoder's registers (R35 to R41). -/
structure Encoder where
  /-- `tx_state`, R35. -/
  state : TxState
  /-- `tx_len`, R36. -/
  len : Byte
  /-- `tx_cmd`, R37. -/
  cmd : Byte
  /-- `tx_acc`, R38. -/
  acc : Byte
  /-- `tx_idx`, R39. -/
  idx : Byte
  /-- `tx_csum`, R40. -/
  csum : Byte
  /-- `tx_buf`, R41; a byte is marked written exactly when it is listed (U3). -/
  buf : Memory
deriving DecidableEq, Repr

/-- The input of one cycle (40_cycle.md R112). `host` is the host transaction word of R88, `none` where `h_en = 0`. -/
structure CycleIn where
  rst : Bool := false
  host : Option HostWord := none
  rxValid : Bool := false
  rxData : Byte := 0
  txReady : Bool := false
deriving DecidableEq, Repr

/-- What the agents outside do next (log 2): the input of the block's next cycle, or the consumer classifying a command
byte (44_wire_commands.md R240), which takes no cycle of the block (log 11). -/
inductive Input where
  | cycle (c : CycleIn)
  | classify (c : Byte)
deriving DecidableEq, Repr

/-- The output ports of one cycle (40_cycle.md R111). `hRdata` is a free value in the cycle of a write (log 15). -/
structure Outputs where
  hRdata : Byte
  rxReady : Bool
  txValid : Bool
  txData : Byte
  rxFrameValid : Bool
  txBusy : Bool
  errAny : Bool
  rxSof : Bool
  rxEof : Bool
deriving DecidableEq, Repr

/-- The fields of a held response, by the contracts of 44_wire_commands.md R241 to R244. -/
inductive Response where
  /-- R241. -/
  | getConfig (status frequency : Byte)
  /-- R242. -/
  | setConfig (status : Byte)
  /-- R243, R247. -/
  | getFix (status hasFix : Byte) (x y : BitVec 32)
  /-- R244: `data` is every payload byte after `size`, of any number (U7). -/
  | echoTest (size : Byte) (data : List Byte)
deriving DecidableEq, Repr

/-- What a wire-command row reports (log 11). -/
structure WireReport where
  /-- The classified command byte. -/
  command : Byte
  /-- The held frame's command byte is this one. -/
  held : Bool
  /-- The encoder's command byte is this one. -/
  loaded : Bool
  /-- The held frame read by this command's contract, where it meets it. -/
  response : Option Response
deriving DecidableEq, Repr

/-- The two faults of a model of this block, both of 93_implementation_defined.md U3. Both are SAFE: the spec itself asks
for a fault and no next state there ("errs toward unprovable"). -/
inductive Fault where
  /-- Raised by a cycle in which the encoder's transfer would carry `tx_buf[i]`, not written since hard reset. Safe. -/
  | sendUnwritten (i : Nat)
  /-- Raised by a host read of `tx_buf[i]`, `i < P_MAX_PAYLOAD`, not written since hard reset. Safe. -/
  | readUnwritten (i : Nat)
deriving DecidableEq, Repr

/-- Why `exec` gives an operation no meaning. -/
inductive Refusal where
  /-- An instruction whose meaning is not written yet; no arm of `exec` answers with it. Safe. -/
  | notModelled (mnemonic : String)
  /-- Raised by `exec` of a stream row in an engine state that does not select that row (30_encoding.md R99): no such
  transfer exists there. No step reaches it, since the step decodes by the state (log 10). Safe. -/
  | armNotSelected
deriving DecidableEq, Repr

/-- The state. `rx`, `tx` and `err` are the tuple of 10_state.md R20; the other fields are the model's own. -/
structure State where
  /-- The parser's registers. -/
  rx : Parser
  /-- The encoder's registers. -/
  tx : Encoder
  /-- `err`, R42: bit 0 DESYNC, 1 CSUM, 2 LEN, 3 ABORT, 4 TXERR. -/
  err : BitVec 5
  /-- The build parameters, an argument of the model that no step changes (R5 to R8, R296; log 1). -/
  cfg : Config.Params
  /-- The output ports in the cycle just taken (R113 to R116; log 4). -/
  out : Outputs
  /-- What the agents outside do in the coming cycles (R112; log 2). -/
  inputs : List Input
  /-- What the last wire-command row reported (log 11). -/
  wire : Option WireReport
  /-- The number of hard resets so far; the free values of an unlisted byte are applied to it (log 5, log 7). -/
  resets : Nat
  /-- The number of host writes so far; the free value of `h_rdata` in a write's cycle is applied to it (log 15). -/
  writes : Nat
deriving DecidableEq, Repr

/-- The parser after a hard reset: 70_reset_and_hazards.md R291. -/
def Parser.reset : Parser :=
  { state := .hunt, dir := 0, len := 0, cmd := 0, csum := 0, acc := 0, idx := 0, result := .none, sofQ := false,
    eofQ := false, buf := [] }

/-- The encoder after a hard reset: R291, every byte of `tx_buf` unwritten (R292). -/
def Encoder.reset : Encoder :=
  { state := .idle, len := 0, cmd := 0, acc := 0, idx := 0, csum := 0, buf := [] }

/-- The outputs after a reset: "ready 1, valid 0, all levels and pulses 0" (R294). -/
def Outputs.reset : Outputs :=
  { hRdata := 0, rxReady := true, txValid := false, txData := 0, rxFrameValid := false, txBusy := false,
    errAny := false, rxSof := false, rxEof := false }

/-- The machine right after a hard reset (R291), of the default build (log 1), with nothing placed for it to do. -/
def State.reset : State :=
  { rx := .reset, tx := .reset, err := 0, cfg := Config.params, out := .reset, inputs := [], wire := none, resets := 0,
    writes := 0 }

end Sys2Proof.Machine
end

