-- ==== Sys2Proof/Machine/Operands.lean ====
section
/-! DEFINITION. The operand forms of the operations: the codes of the coded registers, the buffers' bytes, and every
host view of the state (10_state.md R43 to R59, 20_memory.md R62, R63). -/

namespace Sys2Proof.Machine

/-- The 3-bit code of `rx_state` (R23). -/
def rxStateCode : RxState → BitVec 3
  | .hunt => 0 | .pre2 => 1 | .dir => 2 | .len => 3 | .cmd => 4 | .data => 5 | .csum => 6 | .hold => 7

/-- The 3-bit code of `tx_state` (R35). -/
def txStateCode : TxState → BitVec 3
  | .idle => 0 | .pre1 => 1 | .pre2 => 2 | .dir => 3 | .len => 4 | .cmd => 5 | .data => 6 | .csum => 7

/-- The 3-bit code of `rx_result` (R30). -/
def rxResultCode : RxResult → BitVec 3
  | .none => 0 | .ok => 1 | .csumMismatch => 2 | .lenOverflow => 3 | .aborted => 4

/-- `XOR(list)`: folds exclusive-or over a list of bytes, starting from 0x00 (R10). -/
def xorBytes : List Byte → Byte
  | [] => 0
  | b :: bs => b ^^^ xorBytes bs

/-- The byte a buffer lists at index `i`. -/
def Memory.read : Memory → Nat → Option Byte
  | [], _ => none
  | (k, v) :: rest, i => if k = i then some v else Memory.read rest i

/-- `Held(s)` (43_host_registers.md R190): the parser holds a validated frame. -/
def held (s : State) : Bool := decide (s.rx.state = .hold)

/-- The masked view of a received field: the register in HOLD, 0x00 otherwise (R48 to R51). -/
def heldByte (s : State) (b : Byte) : Byte := if held s then b else 0

/-- `rx_buf[i]`: the listed byte, or the free value of a byte no frame has written since the last hard reset (U1;
log 5). -/
def rxBufByte (s : State) (i : Nat) : Byte := (s.rx.buf.read i).getD (Config.rxUnspecified s.resets i)

/-- `RxView(s, i)` (20_memory.md R62). -/
def rxView (s : State) (i : Byte) : Byte := if held s ∧ i < s.rx.len then rxBufByte s i.toNat else 0

/-- What a host read of TX window byte `i` returns: 0x00 beyond the capacity (R63), else the stored byte, or a fault for
an unwritten one (43_host_registers.md R213, U3). -/
def txView (s : State) (i : Byte) : Except Fault Byte :=
  if i < s.cfg.maxPayload then
    match s.tx.buf.read i.toNat with
    | some b => .ok b
    | none => .error (.readUnwritten i.toNat)
  else .ok 0

/-- `Status(s)` (43_host_registers.md R194): `{0, rx_state, 0, err != 0, tx_state != IDLE, rx_state == HOLD}`. -/
def statusByte (s : State) : Byte :=
  ((((0#1 ++ rxStateCode s.rx.state) ++ 0#1) ++ BitVec.ofBool (decide (s.err ≠ 0))) ++
    BitVec.ofBool (decide (s.tx.state ≠ .idle))) ++ BitVec.ofBool (held s)

/-- ERR as read: `{0b000, err}` (R46, R195). -/
def errByte (s : State) : Byte := 0#3 ++ s.err

/-- RX_RESULT as read: `{0b00000, rx_result}` (R47, R197). -/
def rxResultByte (s : State) : Byte := 0#5 ++ rxResultCode s.rx.result

/-- TX_STATE as read: `{0b00000, tx_state}` (R55, R207). -/
def txStateByte (s : State) : Byte := 0#5 ++ txStateCode s.tx.state

/-- The byte the encoder would carry for payload index `tx_idx`: the stored byte, or the free value of an unwritten one,
which may be offered but not sent (R131; log 7). -/
def txBufByte (s : State) : Byte := (s.tx.buf.read s.tx.idx.toNat).getD (Config.txUnwritten s.resets s.tx.idx.toNat)

/-- `TxByte(s)` (41_encoder.md R131). -/
def txByte (s : State) : Byte :=
  match s.tx.state with
  | .pre1 => s.cfg.pre1
  | .pre2 => s.cfg.pre2
  | .dir => s.cfg.dirTx
  | .len => s.tx.len
  | .cmd => s.tx.cmd
  | .data => txBufByte s
  | .csum => s.tx.acc
  | .idle => 0

/-- The encoder's next transfer would send an unwritten byte (U3). -/
def sendsUnwritten (s : State) : Bool :=
  decide (s.tx.state = .data) && (s.tx.buf.read s.tx.idx.toNat).isNone

end Sys2Proof.Machine
end

