-- ==== Sys2Proof/Machine/Flags.lean ====
section
/-! DEFINITION. The error flags and the events that set them (10_state.md R42, 60_exceptions.md R260 to R273). -/

namespace Sys2Proof.Machine

/-- The error events (R261). -/
inductive Event where
  | desync | csumMismatch | lenOverflow | aborted | txerr
deriving DecidableEq, Repr

/-- `ErrBit(E)` (R261). -/
def errBit : Event → Nat
  | .desync => 0 | .csumMismatch => 1 | .lenOverflow => 2 | .aborted => 3 | .txerr => 4

/-- `1 << ErrBit(E)` (R262). -/
def errMask (e : Event) : BitVec 5 := 1#5 <<< errBit e

/-- `Code(E)`, for the events that end a frame (R261). -/
def frameEnd : Event → Option RxResult
  | .desync => none
  | .csumMismatch => some .csumMismatch
  | .lenOverflow => some .lenOverflow
  | .aborted => some .aborted
  | .txerr => none

/-- `err' = (err & ~clr) | ev_rx | ev_tx`: a flag raised in the cycle the host clears it stays 1 (40_cycle.md R120). -/
def nextErr (err clr evRx evTx : BitVec 5) : BitVec 5 := ((err &&& ~~~clr) ||| evRx) ||| evTx

/-- The flags a write of `d` to ERR clears, `d[4:0]`; `d[7:5]` is ignored (43_host_registers.md R196). -/
def clearMask (d : Byte) : BitVec 5 := d.extractLsb' 0 5

end Sys2Proof.Machine
end

