-- ==== Sys2Proof/Machine/Ops.lean ====
section
/-! DEFINITION. The named operations over the state: writing a buffer, raising an event, the two resets, and the output
ports of a cycle. -/

namespace Sys2Proof.Machine

/-- Write one byte of a buffer, keeping the canonical form. The byte is then written, in the sense of U3. -/
def Memory.write : Memory → Nat → Byte → Memory
  | [], i, b => [(i, b)]
  | (k, v) :: rest, i, b =>
    if i < k then (i, b) :: (k, v) :: rest
    else if i = k then (i, b) :: rest
    else (k, v) :: Memory.write rest i b

/-! ## Raising an event

The block has no trap entry and no trap return (60_exceptions.md R270). What stands in their place is `raise` (R262): it
records the event and goes on. -/

/-- The parser part of a step under way: the parser's next registers and its event mask `ev_rx` (42_parser.md R151). -/
structure RxStep where
  rx : Parser
  ev : BitVec 5 := 0
deriving DecidableEq, Repr

/-- The encoder part of a step under way: the encoder's next registers and its event mask `ev_tx` (41_encoder.md R130). -/
structure TxStep where
  tx : Encoder
  ev : BitVec 5 := 0
deriving DecidableEq, Repr

/-- `raise E()` in the parser (R262): it sets the flag and, if the event ends a frame, `rx_result` and `eof_q`. -/
def raiseRx (e : Event) (x : RxStep) : RxStep :=
  match frameEnd e with
  | some code => { rx := { x.rx with result := code, eofQ := true }, ev := x.ev ||| errMask e }
  | none => { x with ev := x.ev ||| errMask e }

/-- `raise TXERR()` in the encoder (R262, R267): the request "has no effect apart from the flag". -/
def raiseTx (x : TxStep) : TxStep := { x with ev := x.ev ||| errMask .txerr }

/-! ## Reset -/

/-- `ResetState(s)` (70_reset_and_hazards.md R291, R292). The parameters are not reset (R296), and the model's own
fields are kept but for the counter of hard resets. -/
def hardReset (s : State) : State :=
  { s with rx := .reset, tx := .reset, err := 0, resets := s.resets + 1 }

/-- `SoftReset(s)`: `ResetState(s)` with both buffers, and the written marks, unchanged (R293). -/
def softReset (s : State) : State :=
  { s with rx := { Parser.reset with buf := s.rx.buf }, tx := { Encoder.reset with buf := s.tx.buf }, err := 0 }

/-! ## The output ports -/

/-- The outputs of a cycle with `rst == 0` in which the read data is `rd`, from the start-of-cycle state (40_cycle.md R113
to R116). -/
def ports (rd : Byte) (s : State) : Outputs :=
  { hRdata := rd
    rxReady := decide (s.rx.state ≠ .hold)
    txValid := decide (s.tx.state ≠ .idle)
    txData := if s.tx.state ≠ .idle then txByte s else 0
    rxFrameValid := held s
    txBusy := decide (s.tx.state ≠ .idle)
    errAny := decide (s.err ≠ 0)
    rxSof := s.rx.sofQ
    rxEof := s.rx.eofQ }

/-- The outputs of a cycle with `rst == 1` (70_reset_and_hazards.md R294): no port is ready or valid, the levels and
pulses are as in every cycle. -/
def resetPorts (s : State) : Outputs :=
  { ports 0 s with rxReady := false, txValid := false, txData := 0 }

end Sys2Proof.Machine
end

