-- ==== Sys2Proof/Machine/Encoder.lean ====
section
/-! DEFINITION. The frame encoder (41_encoder.md): TX_START, one definition per TX_BYTE arm, the host's writes to the
encoder's inputs, and the transmit part of the step. `t` is the encoder at the start of the cycle, `x` the step under
way. -/

namespace Sys2Proof.Machine

/-- A host write to one of the encoder's inputs (R130, R143). -/
inductive TxWrite where
  | len (d : Byte)
  | cmd (d : Byte)
  | buf (i d : Byte)
deriving DecidableEq, Repr

/-- TX_START: start sending a frame, or refuse (R132). -/
def txStart (cfg : Config.Params) (t : Encoder) (x : TxStep) : TxStep :=
  if t.state ≠ .idle then raiseTx x
  else if cfg.maxPayload < t.len then raiseTx x
  else { x with tx := { x.tx with state := .pre1, acc := 0, idx := 0 } }

/-- TX_BYTE in PRE1: send the first preamble byte (R133). -/
def txPre1 (x : TxStep) : TxStep := { x with tx := { x.tx with state := .pre2 } }

/-- TX_BYTE in PRE2: send the second preamble byte (R134). -/
def txPre2 (x : TxStep) : TxStep := { x with tx := { x.tx with state := .dir } }

/-- TX_BYTE in DIR: send the direction marker (R135). -/
def txDir (x : TxStep) : TxStep := { x with tx := { x.tx with state := .len } }

/-- TX_BYTE in LEN: inject the length byte (R136). -/
def txLen (t : Encoder) (x : TxStep) : TxStep :=
  { x with tx := { x.tx with acc := t.acc ^^^ t.len, state := .cmd } }

/-- TX_BYTE in CMD: send the command byte (R137). -/
def txCmd (t : Encoder) (x : TxStep) : TxStep :=
  { x with tx := { x.tx with acc := t.acc ^^^ t.cmd, state := if t.len = 0 then .csum else .data } }

/-- TX_BYTE in DATA: send one payload byte, `b = tx_buf[tx_idx]` (R138). -/
def txData (b : Byte) (t : Encoder) (x : TxStep) : TxStep :=
  { x with tx := { x.tx with
      acc := t.acc ^^^ b, idx := t.idx + 1, state := if t.idx + 1 = t.len then .csum else .data } }

/-- TX_BYTE in CSUM: inject the checksum byte (R139). -/
def txCsum (t : Encoder) (x : TxStep) : TxStep :=
  { x with tx := { x.tx with csum := t.acc, state := .idle } }

/-- The arm of the encoder's state for a taken byte `b`. IDLE offers nothing (R114), and nothing changes. -/
def txArm (b : Byte) (t : Encoder) (x : TxStep) : TxStep :=
  match t.state with
  | .idle => x
  | .pre1 => txPre1 x
  | .pre2 => txPre2 x
  | .dir => txDir x
  | .len => txLen t x
  | .cmd => txCmd t x
  | .data => txData b t x
  | .csum => txCsum t x

/-- A host write to an encoder input: stored while idle, refused with TXERR otherwise; a TX window byte beyond the
capacity is ignored in every state (43_host_registers.md R203, R205, R214; R143). -/
def txWrite (cfg : Config.Params) (w : TxWrite) (t : Encoder) (x : TxStep) : TxStep :=
  match w with
  | .len d => if t.state = .idle then { x with tx := { x.tx with len := d } } else raiseTx x
  | .cmd d => if t.state = .idle then { x with tx := { x.tx with cmd := d } } else raiseTx x
  | .buf i d =>
    if ¬ i < cfg.maxPayload then x
    else if t.state = .idle then { x with tx := { x.tx with buf := x.tx.buf.write i.toNat d } }
    else raiseTx x

/-- `TxNext(s, tx_go, start, wr)` (R130); `sent` is the byte transferred in this cycle, if one is. -/
def txNext (cfg : Config.Params) (t : Encoder) (sent : Option Byte) (start : Bool) (wr : Option TxWrite) : TxStep :=
  let x : TxStep := { tx := t }
  let x := match sent with
    | some b => txArm b t x
    | none => x
  let x := if start then txStart cfg t x else x
  match wr with
  | some w => txWrite cfg w t x
  | none => x

end Sys2Proof.Machine
end

