-- ==== Sys2Proof/Machine/Parser.lean ====
section
/-! DEFINITION. The frame parser and boundary detector (42_parser.md): one definition per RX_BYTE arm, the two host
commands on the parser, and the receive part of the step. Every arm reads the start-of-cycle registers `r`; `x` is the
step under way, in which the pulses are already cleared (R151). -/

namespace Sys2Proof.Machine

/-- RX_BYTE in HUNT: the preamble detector, first byte (R152). -/
def rxHunt (cfg : Config.Params) (b : Byte) (x : RxStep) : RxStep :=
  if b = cfg.pre1 then { x with rx := { x.rx with state := .pre2 } }
  else raiseRx .desync x

/-- RX_BYTE in PRE2: the preamble detector, second byte and resync; the comparison with `P_PRE2` comes first (R153). -/
def rxPre2 (cfg : Config.Params) (b : Byte) (x : RxStep) : RxStep :=
  if b = cfg.pre2 then { x with rx := { x.rx with state := .dir, acc := 0, idx := 0, sofQ := true } }
  else if b = cfg.pre1 then raiseRx .desync { x with rx := { x.rx with state := .pre2 } }
  else raiseRx .desync { x with rx := { x.rx with state := .hunt } }

/-- RX_BYTE in DIR: capture the direction byte, unchecked (R154). -/
def rxDir (b : Byte) (x : RxStep) : RxStep :=
  { x with rx := { x.rx with dir := b, state := .len } }

/-- RX_BYTE in LEN: capture the length byte and bound it (R155). -/
def rxLen (cfg : Config.Params) (b : Byte) (r : Parser) (x : RxStep) : RxStep :=
  let x := { x with rx := { x.rx with len := b, acc := r.acc ^^^ b } }
  if cfg.maxPayload < b then raiseRx .lenOverflow { x with rx := { x.rx with state := .hunt } }
  else { x with rx := { x.rx with state := .cmd } }

/-- RX_BYTE in CMD: capture the command byte, unchecked (R156). -/
def rxCmd (b : Byte) (r : Parser) (x : RxStep) : RxStep :=
  { x with rx := { x.rx with
      cmd := b, acc := r.acc ^^^ b, idx := 0, state := if r.len = 0 then .csum else .data } }

/-- RX_BYTE in DATA: the length-based payload buffer (R157). -/
def rxData (b : Byte) (r : Parser) (x : RxStep) : RxStep :=
  { x with rx := { x.rx with
      buf := x.rx.buf.write r.idx.toNat b, acc := r.acc ^^^ b, idx := r.idx + 1
      state := if r.idx + 1 = r.len then .csum else .data } }

/-- RX_BYTE in CSUM: the XOR checksum validator (R158). -/
def rxCsum (b : Byte) (r : Parser) (x : RxStep) : RxStep :=
  let x := { x with rx := { x.rx with csum := b } }
  if b = r.acc then { x with rx := { x.rx with state := .hold, result := .ok, eofQ := true } }
  else raiseRx .csumMismatch { x with rx := { x.rx with state := .hunt } }

/-- RX_ACK: release the held frame; no effect outside HOLD (R160). -/
def rxAck (r : Parser) (x : RxStep) : RxStep :=
  if r.state = .hold then { x with rx := { x.rx with state := .hunt } } else x

/-- RX_FLUSH: abandon the frame in progress or the frame held (R161). -/
def rxFlush (r : Parser) (x : RxStep) : RxStep :=
  match r.state with
  | .dir | .len | .cmd | .data | .csum => raiseRx .aborted { x with rx := { x.rx with state := .hunt } }
  | .pre2 => { x with rx := { x.rx with state := .hunt } }
  | .hold => { x with rx := { x.rx with state := .hunt } }
  | .hunt => x

/-- The arm of the parser's state for an accepted byte. HOLD has none: no byte is accepted there (R159), and nothing
changes. -/
def rxArm (cfg : Config.Params) (b : Byte) (r : Parser) (x : RxStep) : RxStep :=
  match r.state with
  | .hunt => rxHunt cfg b x
  | .pre2 => rxPre2 cfg b x
  | .dir => rxDir b x
  | .len => rxLen cfg b r x
  | .cmd => rxCmd b r x
  | .data => rxData b r x
  | .csum => rxCsum b r x
  | .hold => x

/-- "pulses last one cycle" (R151). -/
def clearPulses (r : Parser) : Parser := { r with sofQ := false, eofQ := false }

/-- `RxNext(s, rx_in, ack, flush)` (R151): RX_FLUSH first, then RX_ACK, then a byte transfer (40_cycle.md R119). -/
def rxNext (cfg : Config.Params) (r : Parser) (rxIn : Option Byte) (ack flush : Bool) : RxStep :=
  let x : RxStep := { rx := clearPulses r }
  if flush then rxFlush r x
  else if ack = true ∧ r.state = .hold then rxAck r x
  else
    match rxIn with
    | some b => rxArm cfg b r x
    | none => x

end Sys2Proof.Machine
end

