-- ==== Sys2Proof/Machine/Cycle.lean ====
section
/-! DEFINITION. One clock cycle with `rst == 0` (40_cycle.md R117), and its forms with one operation in the cycle. -/

namespace Sys2Proof.Machine

/-- What a host transaction does in its cycle: what it sends to the engines (R117, R191) and the read data it drives
(R190), or the fault of reading an unwritten byte (U3). -/
structure HostOp where
  /-- CTRL write data, else no command. -/
  ctrl : Byte := 0
  /-- The flags to clear. -/
  clr : BitVec 5 := 0
  /-- A write to an encoder input. -/
  wr : Option TxWrite := none
  /-- `h_rdata`, in a cycle that is no write. -/
  rdata : Except Fault Byte := .ok 0
  /-- The transaction is a write. -/
  write : Bool := false

/-- A cycle without a host transaction: `h_rdata = 0x00`, `ctrl = 0x00`, `clr = 0`, `wr = None` (43_host_registers.md
R216). -/
def opNop : HostOp := {}

/-- What `h_rdata` carries: the read data `rd` in the cycle of a read and 0x00 where there is no access (R115), a free
value in the cycle of a write, for which the spec gives none (log 15). -/
def driven (h : HostOp) (rd : Byte) (s : State) : Byte := if h.write then Config.writeReadData s.writes else rd

/-- The count of host writes after the cycle (log 15). -/
def countWrites (h : HostOp) (s : State) : Nat := if h.write then s.writes + 1 else s.writes

/-- The transfers, commands and clears of a cycle that has neither a fault nor SOFT_RESET, with outputs `out` (R117). -/
def advance (h : HostOp) (rxOffer : Option Byte) (txReady : Bool) (out : Outputs) (s : State) : State :=
  let rxIn := if s.rx.state = .hold then none else rxOffer
  let sent := if s.tx.state ≠ .idle ∧ txReady = true then some (txByte s) else none
  let x := rxNext s.cfg s.rx rxIn (h.ctrl.getLsbD 0) (h.ctrl.getLsbD 1)
  let y := txNext s.cfg s.tx sent (h.ctrl.getLsbD 2) h.wr
  { s with rx := x.rx, tx := y.tx, err := nextErr s.err h.clr x.ev y.ev, out := out, writes := countWrites h s }

/-- One clock cycle with `rst == 0`: the host transaction `h`, the byte offered on the receive port, and `tx_ready`
(R117). SOFT_RESET takes precedence over everything else (R118), but the byte transferred in its cycle is delivered, so
an unwritten one faults there too (log 8). -/
def runCycle (h : HostOp) (rxOffer : Option Byte) (txReady : Bool) (s : State) :
    Host.Outcome State Fault Refusal :=
  match h.rdata with
  | .error f => .fault f
  | .ok rd =>
    if txReady = true ∧ sendsUnwritten s = true then .fault (.sendUnwritten s.tx.idx.toNat)
    else if h.ctrl.getLsbD 7 then
      .next { softReset s with out := ports (driven h rd s) s, writes := countWrites h s }
    else .next (advance h rxOffer txReady (ports (driven h rd s) s) s)

/-- A cycle with a host transaction and no transfer. -/
def hostCycle (h : HostOp) (s : State) : Host.Outcome State Fault Refusal := runCycle h none false s

/-- A cycle in which the receive port transfers `b` in state `st`, and nothing else happens; no such transfer exists in
another state (R91, R99; log 10). -/
def rxCycle (st : RxState) (b : Byte) (s : State) : Host.Outcome State Fault Refusal :=
  if s.rx.state = st then runCycle opNop (some b) false s else .refused .armNotSelected

/-- A cycle in which the transmit port transfers the offered byte in state `st`, and nothing else happens; no such
transfer exists in another state (R91, R99; log 10). -/
def txCycle (st : TxState) (s : State) : Host.Outcome State Fault Refusal :=
  if s.tx.state = st then runCycle opNop none true s else .refused .armNotSelected

end Sys2Proof.Machine
end

