-- ==== Sys2Proof/Machine/HostAccess.lean ====
section
/-! DEFINITION. The host accesses (43_host_registers.md): for each row what it does in its cycle (`op…`, which the step
joins with the transfers of the same cycle) and its meaning alone (`exec…`, the cycle with this access and nothing
else). -/

namespace Sys2Proof.Machine

/-- A write that is ignored and raises nothing (R215). -/
def opIgnored : HostOp := { write := true }

/-- A CTRL write of `d`: bit 7 is SOFT_RESET, bits 2:0 are TX_START, RX_FLUSH and RX_ACK, bits 6:3 are ignored (R192). -/
def opCtrl (d : Byte) : HostOp := { ctrl := d, write := true }

/-- An access to a reserved address, which matches no row: a read returns 0x00, a write is ignored (30_encoding.md R92,
R215). -/
def opReserved (write : Bool) : HostOp := { write := write }

/-- CTRL reads 0x00; commands leave no trace (R193). -/
def opRdCtrl : HostOp := { rdata := .ok 0 }

/-- RD_CTRL (43_host_registers.md R193). -/
def execRdCtrl (s : State) : Host.Outcome State Fault Refusal := hostCycle opRdCtrl s

/-- WR_CTRL (43_host_registers.md R192). -/
def execWrCtrl (d : Byte) (s : State) : Host.Outcome State Fault Refusal := hostCycle (opCtrl d) s

/-- STATUS (R194). -/
def opRdStatus (s : State) : HostOp := { rdata := .ok (statusByte s) }

/-- RD_STATUS (43_host_registers.md R194). -/
def execRdStatus (s : State) : Host.Outcome State Fault Refusal := hostCycle (opRdStatus s) s

/-- WR_STATUS_IGNORED: STATUS is read-only (R215). -/
def execWrStatusIgnored (_d : Byte) (s : State) : Host.Outcome State Fault Refusal := hostCycle opIgnored s

/-- ERR (R195). -/
def opRdErr (s : State) : HostOp := { rdata := .ok (errByte s) }

/-- RD_ERR (43_host_registers.md R195). -/
def execRdErr (s : State) : Host.Outcome State Fault Refusal := hostCycle (opRdErr s) s

/-- Write one to clear (R196). -/
def opWrErr (d : Byte) : HostOp := { clr := clearMask d, write := true }

/-- WR_ERR (43_host_registers.md R196). -/
def execWrErr (d : Byte) (s : State) : Host.Outcome State Fault Refusal := hostCycle (opWrErr d) s

/-- RX_RESULT, not masked (R197). -/
def opRdRxResult (s : State) : HostOp := { rdata := .ok (rxResultByte s) }

/-- RD_RX_RESULT (43_host_registers.md R197). -/
def execRdRxResult (s : State) : Host.Outcome State Fault Refusal := hostCycle (opRdRxResult s) s

/-- WR_RX_RESULT_IGNORED: RX_RESULT is read-only (R215). -/
def execWrRxResultIgnored (_d : Byte) (s : State) : Host.Outcome State Fault Refusal := hostCycle opIgnored s

/-- RX_DIR, masked outside HOLD (R198). -/
def opRdRxDir (s : State) : HostOp := { rdata := .ok (heldByte s s.rx.dir) }

/-- RD_RX_DIR (43_host_registers.md R198). -/
def execRdRxDir (s : State) : Host.Outcome State Fault Refusal := hostCycle (opRdRxDir s) s

/-- WR_RX_DIR_IGNORED: RX_DIR is read-only (R215). -/
def execWrRxDirIgnored (_d : Byte) (s : State) : Host.Outcome State Fault Refusal := hostCycle opIgnored s

/-- RX_LEN, masked outside HOLD (R199). -/
def opRdRxLen (s : State) : HostOp := { rdata := .ok (heldByte s s.rx.len) }

/-- RD_RX_LEN (43_host_registers.md R199). -/
def execRdRxLen (s : State) : Host.Outcome State Fault Refusal := hostCycle (opRdRxLen s) s

/-- WR_RX_LEN_IGNORED: RX_LEN is read-only (R215). -/
def execWrRxLenIgnored (_d : Byte) (s : State) : Host.Outcome State Fault Refusal := hostCycle opIgnored s

/-- RX_CMD, masked outside HOLD (R200). -/
def opRdRxCmd (s : State) : HostOp := { rdata := .ok (heldByte s s.rx.cmd) }

/-- RD_RX_CMD (43_host_registers.md R200). -/
def execRdRxCmd (s : State) : Host.Outcome State Fault Refusal := hostCycle (opRdRxCmd s) s

/-- WR_RX_CMD_IGNORED: RX_CMD is read-only (R215). -/
def execWrRxCmdIgnored (_d : Byte) (s : State) : Host.Outcome State Fault Refusal := hostCycle opIgnored s

/-- RX_CSUM, masked outside HOLD (R201). -/
def opRdRxCsum (s : State) : HostOp := { rdata := .ok (heldByte s s.rx.csum) }

/-- RD_RX_CSUM (43_host_registers.md R201). -/
def execRdRxCsum (s : State) : Host.Outcome State Fault Refusal := hostCycle (opRdRxCsum s) s

/-- WR_RX_CSUM_IGNORED: RX_CSUM is read-only (R215). -/
def execWrRxCsumIgnored (_d : Byte) (s : State) : Host.Outcome State Fault Refusal := hostCycle opIgnored s

/-- TX_LEN, readable in every encoder state (R202). -/
def opRdTxLen (s : State) : HostOp := { rdata := .ok s.tx.len }

/-- RD_TX_LEN (43_host_registers.md R202). -/
def execRdTxLen (s : State) : Host.Outcome State Fault Refusal := hostCycle (opRdTxLen s) s

/-- A write to the encoder's input TX_LEN (R203). -/
def opWrTxLen (d : Byte) : HostOp := { wr := some (.len d), write := true }

/-- WR_TX_LEN (43_host_registers.md R203). -/
def execWrTxLen (d : Byte) (s : State) : Host.Outcome State Fault Refusal := hostCycle (opWrTxLen d) s

/-- TX_CMD, readable in every encoder state (R204). -/
def opRdTxCmd (s : State) : HostOp := { rdata := .ok s.tx.cmd }

/-- RD_TX_CMD (43_host_registers.md R204). -/
def execRdTxCmd (s : State) : Host.Outcome State Fault Refusal := hostCycle (opRdTxCmd s) s

/-- A write to the encoder's input TX_CMD (R205). -/
def opWrTxCmd (d : Byte) : HostOp := { wr := some (.cmd d), write := true }

/-- WR_TX_CMD (43_host_registers.md R205). -/
def execWrTxCmd (d : Byte) (s : State) : Host.Outcome State Fault Refusal := hostCycle (opWrTxCmd d) s

/-- TX_CSUM, the last completed frame (R206). -/
def opRdTxCsum (s : State) : HostOp := { rdata := .ok s.tx.csum }

/-- RD_TX_CSUM (43_host_registers.md R206). -/
def execRdTxCsum (s : State) : Host.Outcome State Fault Refusal := hostCycle (opRdTxCsum s) s

/-- WR_TX_CSUM_IGNORED: TX_CSUM is read-only (R215). -/
def execWrTxCsumIgnored (_d : Byte) (s : State) : Host.Outcome State Fault Refusal := hostCycle opIgnored s

/-- TX_STATE (R207). -/
def opRdTxState (s : State) : HostOp := { rdata := .ok (txStateByte s) }

/-- RD_TX_STATE (43_host_registers.md R207). -/
def execRdTxState (s : State) : Host.Outcome State Fault Refusal := hostCycle (opRdTxState s) s

/-- WR_TX_STATE_IGNORED: TX_STATE is read-only (R215). -/
def execWrTxStateIgnored (_d : Byte) (s : State) : Host.Outcome State Fault Refusal := hostCycle opIgnored s

/-- ID_MAXLEN (R208). -/
def opRdIdMaxlen (s : State) : HostOp := { rdata := .ok s.cfg.maxPayload }

/-- RD_ID_MAXLEN (43_host_registers.md R208). -/
def execRdIdMaxlen (s : State) : Host.Outcome State Fault Refusal := hostCycle (opRdIdMaxlen s) s

/-- WR_ID_MAXLEN_IGNORED: ID_MAXLEN is read-only (R215). -/
def execWrIdMaxlenIgnored (_d : Byte) (s : State) : Host.Outcome State Fault Refusal := hostCycle opIgnored s

/-- ID_PRE1 (R209). -/
def opRdIdPre1 (s : State) : HostOp := { rdata := .ok s.cfg.pre1 }

/-- RD_ID_PRE1 (43_host_registers.md R209). -/
def execRdIdPre1 (s : State) : Host.Outcome State Fault Refusal := hostCycle (opRdIdPre1 s) s

/-- WR_ID_PRE1_IGNORED: ID_PRE1 is read-only (R215). -/
def execWrIdPre1Ignored (_d : Byte) (s : State) : Host.Outcome State Fault Refusal := hostCycle opIgnored s

/-- ID_PRE2 (R210). -/
def opRdIdPre2 (s : State) : HostOp := { rdata := .ok s.cfg.pre2 }

/-- RD_ID_PRE2 (43_host_registers.md R210). -/
def execRdIdPre2 (s : State) : Host.Outcome State Fault Refusal := hostCycle (opRdIdPre2 s) s

/-- WR_ID_PRE2_IGNORED: ID_PRE2 is read-only (R215). -/
def execWrIdPre2Ignored (_d : Byte) (s : State) : Host.Outcome State Fault Refusal := hostCycle opIgnored s

/-- ID_DIRTX (R211). -/
def opRdIdDirtx (s : State) : HostOp := { rdata := .ok s.cfg.dirTx }

/-- RD_ID_DIRTX (43_host_registers.md R211). -/
def execRdIdDirtx (s : State) : Host.Outcome State Fault Refusal := hostCycle (opRdIdDirtx s) s

/-- WR_ID_DIRTX_IGNORED: ID_DIRTX is read-only (R215). -/
def execWrIdDirtxIgnored (_d : Byte) (s : State) : Host.Outcome State Fault Refusal := hostCycle opIgnored s

/-- CTRL.RX_ACK (R160): the CTRL write of this row's pattern. -/
def execCtrlRxAck (hi : BitVec 6) (s : State) : Host.Outcome State Fault Refusal := hostCycle (opCtrl (ctrlRxAckData hi)) s

/-- CTRL.RX_FLUSH (R161): the CTRL write of this row's pattern. -/
def execCtrlRxFlush (hi : BitVec 5) (b0 : BitVec 1) (s : State) : Host.Outcome State Fault Refusal := hostCycle (opCtrl (ctrlRxFlushData hi b0)) s

/-- CTRL.TX_START (R132): the CTRL write of this row's pattern. -/
def execCtrlTxStart (hi : BitVec 4) (lo : BitVec 2) (s : State) : Host.Outcome State Fault Refusal := hostCycle (opCtrl (ctrlTxStartData hi lo)) s

/-- CTRL.SOFT_RESET (R118, 70_reset_and_hazards.md R293): the CTRL write of this row's pattern. -/
def execCtrlSoftReset (lo : BitVec 7) (s : State) : Host.Outcome State Fault Refusal := hostCycle (opCtrl (ctrlSoftResetData lo)) s

/-- The RX window: `RxView(s, i)` (R212). -/
def opRdRxBuf (i : Byte) (s : State) : HostOp := { rdata := .ok (rxView s i) }

/-- RD_RX_BUF (R212). -/
def execRdRxBuf (i : Byte) (s : State) : Host.Outcome State Fault Refusal := hostCycle (opRdRxBuf i s) s

/-- WR_RX_BUF_IGNORED: the RX window is read-only (R215). -/
def execWrRxBufIgnored (_i _d : Byte) (s : State) : Host.Outcome State Fault Refusal := hostCycle opIgnored s

/-- The TX window: the stored byte, 0x00 beyond the capacity, a fault where the byte is unwritten (R213, U3). -/
def opRdTxBuf (i : Byte) (s : State) : HostOp := { rdata := txView s i }

/-- RD_TX_BUF (R213). -/
def execRdTxBuf (i : Byte) (s : State) : Host.Outcome State Fault Refusal := hostCycle (opRdTxBuf i s) s

/-- A write to the TX window (R214). -/
def opWrTxBuf (i d : Byte) : HostOp := { wr := some (.buf i d), write := true }

/-- WR_TX_BUF (43_host_registers.md R214). -/
def execWrTxBuf (i d : Byte) (s : State) : Host.Outcome State Fault Refusal := hostCycle (opWrTxBuf i d) s

/-- What a host row does in its cycle. A stream row or a wire-command row is no host transaction. -/
def hostOpOf (i : Instr) (s : State) : HostOp :=
  match i with
  | .rdCtrl => opRdCtrl
  | .wrCtrl d => opCtrl d
  | .rdStatus => opRdStatus s
  | .wrStatusIgnored _ => opIgnored
  | .rdErr => opRdErr s
  | .wrErr d => opWrErr d
  | .rdRxResult => opRdRxResult s
  | .wrRxResultIgnored _ => opIgnored
  | .rdRxDir => opRdRxDir s
  | .wrRxDirIgnored _ => opIgnored
  | .rdRxLen => opRdRxLen s
  | .wrRxLenIgnored _ => opIgnored
  | .rdRxCmd => opRdRxCmd s
  | .wrRxCmdIgnored _ => opIgnored
  | .rdRxCsum => opRdRxCsum s
  | .wrRxCsumIgnored _ => opIgnored
  | .rdTxLen => opRdTxLen s
  | .wrTxLen d => opWrTxLen d
  | .rdTxCmd => opRdTxCmd s
  | .wrTxCmd d => opWrTxCmd d
  | .rdTxCsum => opRdTxCsum s
  | .wrTxCsumIgnored _ => opIgnored
  | .rdTxState => opRdTxState s
  | .wrTxStateIgnored _ => opIgnored
  | .rdIdMaxlen => opRdIdMaxlen s
  | .wrIdMaxlenIgnored _ => opIgnored
  | .rdIdPre1 => opRdIdPre1 s
  | .wrIdPre1Ignored _ => opIgnored
  | .rdIdPre2 => opRdIdPre2 s
  | .wrIdPre2Ignored _ => opIgnored
  | .rdIdDirtx => opRdIdDirtx s
  | .wrIdDirtxIgnored _ => opIgnored
  | .ctrlRxAck hi => opCtrl (ctrlRxAckData hi)
  | .ctrlRxFlush hi b0 => opCtrl (ctrlRxFlushData hi b0)
  | .ctrlTxStart hi lo => opCtrl (ctrlTxStartData hi lo)
  | .ctrlSoftReset lo => opCtrl (ctrlSoftResetData lo)
  | .rdRxBuf i => opRdRxBuf i s
  | .wrRxBufIgnored _ _ => opIgnored
  | .rdTxBuf i => opRdTxBuf i s
  | .wrTxBuf i d => opWrTxBuf i d
  | .rxByteHunt _ => opNop
  | .rxBytePre2 _ => opNop
  | .rxByteDir _ => opNop
  | .rxByteLen _ => opNop
  | .rxByteCmd _ => opNop
  | .rxByteData _ => opNop
  | .rxByteCsum _ => opNop
  | .txBytePre1 => opNop
  | .txBytePre2 => opNop
  | .txByteDir => opNop
  | .txByteLen => opNop
  | .txByteCmd => opNop
  | .txByteData => opNop
  | .txByteCsum => opNop
  | .cmdGetConfig => opNop
  | .cmdSetConfig => opNop
  | .cmdGetFix => opNop
  | .cmdEchoTest => opNop

/-! ## The host's view of the whole register space -/

/-- `MemRead(a, 1)` (R190), by address. -/
def memRead (a : HostAddr) (s : State) : Except Fault Byte :=
  if a < 0x010 then
    match a.toNat with
    | 0x0 => .ok 0
    | 0x1 => .ok (statusByte s)
    | 0x2 => .ok (errByte s)
    | 0x3 => .ok (rxResultByte s)
    | 0x4 => .ok (heldByte s s.rx.dir)
    | 0x5 => .ok (heldByte s s.rx.len)
    | 0x6 => .ok (heldByte s s.rx.cmd)
    | 0x7 => .ok (heldByte s s.rx.csum)
    | 0x8 => .ok s.tx.len
    | 0x9 => .ok s.tx.cmd
    | 0xA => .ok s.tx.csum
    | 0xB => .ok (txStateByte s)
    | 0xC => .ok s.cfg.maxPayload
    | 0xD => .ok s.cfg.pre1
    | 0xE => .ok s.cfg.pre2
    | _ => .ok s.cfg.dirTx
  else if a < 0x200 then .ok 0
  else if a < 0x300 then .ok (rxView s (addrIndex a))
  else txView s (addrIndex a)

/-- `MemWrite(a, 1, d)` (R191): the one place a write is sent to. -/
def memWrite (a : HostAddr) (d : Byte) : HostOp :=
  if a = 0x000 then { ctrl := d, write := true }
  else if a = 0x002 then { clr := clearMask d, write := true }
  else if a = 0x008 then { wr := some (.len d), write := true }
  else if a = 0x009 then { wr := some (.cmd d), write := true }
  else if 0x300 ≤ a then { wr := some (.buf (addrIndex a) d), write := true }
  else { write := true }

end Sys2Proof.Machine
end

