-- ==== Sys2Proof/Machine/Stream.lean ====
section
/-! DEFINITION. The stream transfers (30_encoding.md R91): for each row the cycle in which that transfer happens and
nothing else does. The arms are in Parser.lean and Encoder.lean. -/

namespace Sys2Proof.Machine

/-- RX_BYTE.HUNT (42_parser.md R152). -/
def execRxByteHunt (b : Byte) (s : State) : Host.Outcome State Fault Refusal := rxCycle .hunt b s

/-- RX_BYTE.PRE2 (42_parser.md R153). -/
def execRxBytePre2 (b : Byte) (s : State) : Host.Outcome State Fault Refusal := rxCycle .pre2 b s

/-- RX_BYTE.DIR (42_parser.md R154). -/
def execRxByteDir (b : Byte) (s : State) : Host.Outcome State Fault Refusal := rxCycle .dir b s

/-- RX_BYTE.LEN (42_parser.md R155). -/
def execRxByteLen (b : Byte) (s : State) : Host.Outcome State Fault Refusal := rxCycle .len b s

/-- RX_BYTE.CMD (42_parser.md R156). -/
def execRxByteCmd (b : Byte) (s : State) : Host.Outcome State Fault Refusal := rxCycle .cmd b s

/-- RX_BYTE.DATA (42_parser.md R157). -/
def execRxByteData (b : Byte) (s : State) : Host.Outcome State Fault Refusal := rxCycle .data b s

/-- RX_BYTE.CSUM (42_parser.md R158). -/
def execRxByteCsum (b : Byte) (s : State) : Host.Outcome State Fault Refusal := rxCycle .csum b s

/-- TX_BYTE.PRE1 (41_encoder.md R133). -/
def execTxBytePre1 (s : State) : Host.Outcome State Fault Refusal := txCycle .pre1 s

/-- TX_BYTE.PRE2 (41_encoder.md R134). -/
def execTxBytePre2 (s : State) : Host.Outcome State Fault Refusal := txCycle .pre2 s

/-- TX_BYTE.DIR (41_encoder.md R135). -/
def execTxByteDir (s : State) : Host.Outcome State Fault Refusal := txCycle .dir s

/-- TX_BYTE.LEN (41_encoder.md R136). -/
def execTxByteLen (s : State) : Host.Outcome State Fault Refusal := txCycle .len s

/-- TX_BYTE.CMD (41_encoder.md R137). -/
def execTxByteCmd (s : State) : Host.Outcome State Fault Refusal := txCycle .cmd s

/-- TX_BYTE.DATA (41_encoder.md R138). -/
def execTxByteData (s : State) : Host.Outcome State Fault Refusal := txCycle .data s

/-- TX_BYTE.CSUM (41_encoder.md R139). -/
def execTxByteCsum (s : State) : Host.Outcome State Fault Refusal := txCycle .csum s

end Sys2Proof.Machine
end

