-- ==== Sys2Proof/Machine/Wire.lean ====
section
/-! DEFINITION. The wire frame (30_encoding.md R80 to R87), the command contracts a consumer applies to a held frame
(44_wire_commands.md R240 to R250), and the meanings of the wire-command rows, which "classify a byte already stored in
`rx_cmd` or `tx_cmd`" (R99) and add no behaviour to the block (log 11). -/

namespace Sys2Proof.Machine

/-- `XOR([L, C, P[0], ..., P[L-1]])` (R87). -/
def checksum (c : Byte) (p : List Byte) : Byte := xorBytes (BitVec.ofNat 8 p.length :: c :: p)

/-- A frame with direction byte `dir`, command `c` and payload `p` (R80). -/
def wireFrame (cfg : Config.Params) (dir c : Byte) (p : List Byte) : List Byte :=
  [cfg.pre1, cfg.pre2, dir, BitVec.ofNat 8 p.length, c] ++ p ++ [checksum c p]

/-- `Encode(C, P)` (41_encoder.md R140). -/
def encodeFrame (cfg : Config.Params) (c : Byte) (p : List Byte) : List Byte := wireFrame cfg cfg.dirTx c p

/-- The command byte GET_CONFIG (R240). -/
def wireGetConfig : Byte := 195

/-- The command byte SET_CONFIG (R240). -/
def wireSetConfig : Byte := 196

/-- The command byte GET_FIX (R240). -/
def wireGetFix : Byte := 197

/-- The command byte ECHO_TEST (R240). -/
def wireEchoTest : Byte := 198

/-- The meaning of a status byte; codes 4 to 255 have none (R246). -/
inductive StatusCode where
  | success | invalidFrequency | hardwareError | timeout
deriving DecidableEq, Repr

/-- R246. -/
def statusCode (b : Byte) : Option StatusCode :=
  match b.toNat with
  | 0 => some .success
  | 1 => some .invalidFrequency
  | 2 => some .hardwareError
  | 3 => some .timeout
  | _ => none

/-- A SET_CONFIG frequency is valid from 1 to 100 inclusive (R248). The block does not check it. -/
def frequencyValid (f : Byte) : Bool := decide (1 ≤ f) && decide (f ≤ 100)

/-- `DecodeU32BE` (R247). -/
def decodeU32BE (b0 b1 b2 b3 : Byte) : BitVec 32 := ((b0 ++ b1) ++ b2) ++ b3

/-- The request payloads of R241 to R244. -/
def requestGetConfig : List Byte := []

/-- See `requestGetConfig` (R242). -/
def requestSetConfig (frequency : Byte) : List Byte := [frequency]

/-- See `requestGetConfig` (R243). -/
def requestGetFix : List Byte := []

/-- See `requestGetConfig` (R244): `size` at payload byte 0 and `data` at payload bytes 1 to 32, so L = 33. -/
def requestEchoTest (size : Byte) (data : Vector Byte 32) : List Byte := size :: data.toList

/-- A request with its operands: the request column of R240. -/
inductive Request where
  /-- R241. -/
  | getConfig
  /-- R242. -/
  | setConfig (frequency : Byte)
  /-- R243. -/
  | getFix
  /-- R244. -/
  | echoTest (size : Byte) (data : Vector Byte 32)
deriving DecidableEq, Repr

/-- The command byte of a request (R240). -/
def requestCommand : Request → Byte
  | .getConfig => wireGetConfig
  | .setConfig _ => wireSetConfig
  | .getFix => wireGetFix
  | .echoTest _ _ => wireEchoTest

/-- The payload of a request (R240). -/
def requestPayload : Request → List Byte
  | .getConfig => requestGetConfig
  | .setConfig frequency => requestSetConfig frequency
  | .getFix => requestGetFix
  | .echoTest size data => requestEchoTest size data

/-- The frame of a request (R241 to R244). -/
def requestFrame (cfg : Config.Params) (r : Request) : List Byte := encodeFrame cfg (requestCommand r) (requestPayload r)

/-- The payload of the held frame as the host reads it, through the RX window. -/
def heldPayload (s : State) : List Byte :=
  (List.range s.rx.len.toNat).map fun i => rxView s (BitVec.ofNat 8 i)

/-- "in HOLD: RX_CMD == c, RX_LEN == n" (R241 to R243, R250). -/
def contractMet (s : State) (c n : Byte) : Bool :=
  held s && decide (heldByte s s.rx.cmd = c) && decide (heldByte s s.rx.len = n)

/-- A held GET_CONFIG response (R241). -/
def readGetConfig (s : State) : Option Response :=
  if contractMet s wireGetConfig 2 then some (.getConfig (rxView s 0) (rxView s 1)) else none

/-- A held SET_CONFIG response (R242). -/
def readSetConfig (s : State) : Option Response :=
  if contractMet s wireSetConfig 1 then some (.setConfig (rxView s 0)) else none

/-- A held GET_FIX response, accepted only with RX_CMD 0xC5 and RX_LEN 0x0A (R243, R247, R250). -/
def readGetFix (s : State) : Option Response :=
  if contractMet s wireGetFix 10 then
    some (.getFix (rxView s 0) (rxView s 1)
      (decodeU32BE (rxView s 2) (rxView s 3) (rxView s 4) (rxView s 5))
      (decodeU32BE (rxView s 6) (rxView s 7) (rxView s 8) (rxView s 9)))
  else none

/-- A held ECHO_TEST response (R244). No length is assumed (U7): `size` is the first payload byte and `data` the rest; a
response with no payload has no `size`. -/
def readEchoTest (s : State) : Option Response :=
  if held s && decide (heldByte s s.rx.cmd = wireEchoTest) then
    match heldPayload s with
    | [] => none
    | size :: data => some (.echoTest size data)
  else none

/-- "the echoed bytes are data[0 .. size-1]" (R244), as far as the response carries them. -/
def echoed (size : Byte) (data : List Byte) : List Byte := data.take size.toNat

/-- The report of classifying command byte `c` (R99, R245), with the held response read by its contract. -/
def wireReport (c : Byte) (response : Option Response) (s : State) : WireReport :=
  { command := c
    held := held s && decide (s.rx.cmd = c)
    loaded := decide (s.tx.cmd = c)
    response := response }

/-- Classifying a command byte moves nothing in the block and takes no cycle of it (R4; log 11). -/
def classified (c : Byte) (response : Option Response) (s : State) : State :=
  { s with wire := some (wireReport c response s) }

/-- CMD_GET_CONFIG (R241). -/
def execCmdGetConfig (s : State) : Host.Outcome State Fault Refusal :=
  .next (classified wireGetConfig (readGetConfig s) s)

/-- CMD_SET_CONFIG (R242). -/
def execCmdSetConfig (s : State) : Host.Outcome State Fault Refusal :=
  .next (classified wireSetConfig (readSetConfig s) s)

/-- CMD_GET_FIX (R243). -/
def execCmdGetFix (s : State) : Host.Outcome State Fault Refusal :=
  .next (classified wireGetFix (readGetFix s) s)

/-- CMD_ECHO_TEST (R244). -/
def execCmdEchoTest (s : State) : Host.Outcome State Fault Refusal :=
  .next (classified wireEchoTest (readEchoTest s) s)

/-- A command byte without a contract is classified like the others and has no response to read (R245). -/
def classifyOther (c : Byte) (s : State) : Host.Outcome State Fault Refusal := .next (classified c none s)

end Sys2Proof.Machine
end

