-- ==== Sys2Proof/Machine/Dispatch.lean ====
section
/-! DEFINITION. One arm per row of spec/opcode_table.json, each a call of its meaning. -/

namespace Sys2Proof.Machine

def exec (i : Instr) (s : State) : Host.Outcome State Fault Refusal :=
  match i with
  | .rdCtrl => Sys2Proof.Machine.execRdCtrl s
  | .wrCtrl d => Sys2Proof.Machine.execWrCtrl d s
  | .rdStatus => Sys2Proof.Machine.execRdStatus s
  | .wrStatusIgnored d => Sys2Proof.Machine.execWrStatusIgnored d s
  | .rdErr => Sys2Proof.Machine.execRdErr s
  | .wrErr d => Sys2Proof.Machine.execWrErr d s
  | .rdRxResult => Sys2Proof.Machine.execRdRxResult s
  | .wrRxResultIgnored d => Sys2Proof.Machine.execWrRxResultIgnored d s
  | .rdRxDir => Sys2Proof.Machine.execRdRxDir s
  | .wrRxDirIgnored d => Sys2Proof.Machine.execWrRxDirIgnored d s
  | .rdRxLen => Sys2Proof.Machine.execRdRxLen s
  | .wrRxLenIgnored d => Sys2Proof.Machine.execWrRxLenIgnored d s
  | .rdRxCmd => Sys2Proof.Machine.execRdRxCmd s
  | .wrRxCmdIgnored d => Sys2Proof.Machine.execWrRxCmdIgnored d s
  | .rdRxCsum => Sys2Proof.Machine.execRdRxCsum s
  | .wrRxCsumIgnored d => Sys2Proof.Machine.execWrRxCsumIgnored d s
  | .rdTxLen => Sys2Proof.Machine.execRdTxLen s
  | .wrTxLen d => Sys2Proof.Machine.execWrTxLen d s
  | .rdTxCmd => Sys2Proof.Machine.execRdTxCmd s
  | .wrTxCmd d => Sys2Proof.Machine.execWrTxCmd d s
  | .rdTxCsum => Sys2Proof.Machine.execRdTxCsum s
  | .wrTxCsumIgnored d => Sys2Proof.Machine.execWrTxCsumIgnored d s
  | .rdTxState => Sys2Proof.Machine.execRdTxState s
  | .wrTxStateIgnored d => Sys2Proof.Machine.execWrTxStateIgnored d s
  | .rdIdMaxlen => Sys2Proof.Machine.execRdIdMaxlen s
  | .wrIdMaxlenIgnored d => Sys2Proof.Machine.execWrIdMaxlenIgnored d s
  | .rdIdPre1 => Sys2Proof.Machine.execRdIdPre1 s
  | .wrIdPre1Ignored d => Sys2Proof.Machine.execWrIdPre1Ignored d s
  | .rdIdPre2 => Sys2Proof.Machine.execRdIdPre2 s
  | .wrIdPre2Ignored d => Sys2Proof.Machine.execWrIdPre2Ignored d s
  | .rdIdDirtx => Sys2Proof.Machine.execRdIdDirtx s
  | .wrIdDirtxIgnored d => Sys2Proof.Machine.execWrIdDirtxIgnored d s
  | .ctrlRxAck hi => Sys2Proof.Machine.execCtrlRxAck hi s
  | .ctrlRxFlush hi b0 => Sys2Proof.Machine.execCtrlRxFlush hi b0 s
  | .ctrlTxStart hi lo => Sys2Proof.Machine.execCtrlTxStart hi lo s
  | .ctrlSoftReset lo => Sys2Proof.Machine.execCtrlSoftReset lo s
  | .rdRxBuf k => Sys2Proof.Machine.execRdRxBuf k s
  | .wrRxBufIgnored k d => Sys2Proof.Machine.execWrRxBufIgnored k d s
  | .rdTxBuf k => Sys2Proof.Machine.execRdTxBuf k s
  | .wrTxBuf k d => Sys2Proof.Machine.execWrTxBuf k d s
  | .rxByteHunt b => Sys2Proof.Machine.execRxByteHunt b s
  | .rxBytePre2 b => Sys2Proof.Machine.execRxBytePre2 b s
  | .rxByteDir b => Sys2Proof.Machine.execRxByteDir b s
  | .rxByteLen b => Sys2Proof.Machine.execRxByteLen b s
  | .rxByteCmd b => Sys2Proof.Machine.execRxByteCmd b s
  | .rxByteData b => Sys2Proof.Machine.execRxByteData b s
  | .rxByteCsum b => Sys2Proof.Machine.execRxByteCsum b s
  | .txBytePre1 => Sys2Proof.Machine.execTxBytePre1 s
  | .txBytePre2 => Sys2Proof.Machine.execTxBytePre2 s
  | .txByteDir => Sys2Proof.Machine.execTxByteDir s
  | .txByteLen => Sys2Proof.Machine.execTxByteLen s
  | .txByteCmd => Sys2Proof.Machine.execTxByteCmd s
  | .txByteData => Sys2Proof.Machine.execTxByteData s
  | .txByteCsum => Sys2Proof.Machine.execTxByteCsum s
  | .cmdGetConfig => Sys2Proof.Machine.execCmdGetConfig s
  | .cmdSetConfig => Sys2Proof.Machine.execCmdSetConfig s
  | .cmdGetFix => Sys2Proof.Machine.execCmdGetFix s
  | .cmdEchoTest => Sys2Proof.Machine.execCmdEchoTest s

end Sys2Proof.Machine
end

