-- ==== Sys2Proof/Machine/Fetch.lean ====
section
/-! DEFINITION. From the inputs of a cycle to the operations it is made of, and the cycle itself (40_cycle.md R112, R117). -/

namespace Sys2Proof.Machine

/-- What the host transaction of a cycle does: that of the row its word decodes to, of a reserved access where no row
matches (30_encoding.md R92), or nothing (43_host_registers.md R216). -/
def hostTransaction (h : Option HostWord) (s : State) : HostOp :=
  match h with
  | none => opNop
  | some w =>
    match decodeHost w with
    | .ok i => hostOpOf i s
    | .error _ => opReserved (wordWrite w)

/-- "`rx_data` is ignored when `rx_valid = 0`" (R112). -/
def rxOffer (c : CycleIn) : Option Byte := if c.rxValid then some c.rxData else none

/-- `Step(s, in)` (R117): `rst` takes precedence over everything else (R118, 70_reset_and_hazards.md R290). -/
def cycle (c : CycleIn) (s : State) : Host.Outcome State Fault Refusal :=
  if c.rst then .next { hardReset s with out := resetPorts s }
  else runCycle (hostTransaction c.host s) (rxOffer c) c.txReady s

/-- The consumer classifies a command byte: the row of a defined command, or the same report without a contract
(44_wire_commands.md R240, R245; log 11). -/
def classify (c : Byte) (s : State) : Host.Outcome State Fault Refusal :=
  match decodeWire c with
  | .ok i => exec i s
  | .error _ => classifyOther c s

/-- An operation word as an input: a cycle in which it is the only operation, or a classification. -/
def inputOf (op : OpWord) : Input :=
  match op with
  | .host w => .cycle { host := some w }
  | .rx b => .cycle { rxValid := true, rxData := b }
  | .tx => .cycle { txReady := true }
  | .wire c => .classify c

/-- Place an operation word as the next input, with the engine state that selects its row where the row has one
(R99; log 14). -/
def placeWord (op : OpWord) (rx : RxState) (tx : TxState) (s : State) : State :=
  let s := { s with inputs := inputOf op :: s.inputs }
  match op with
  | .rx _ => { s with rx := { s.rx with state := rx } }
  | .tx => { s with tx := { s.tx with state := tx } }
  | .host _ => s
  | .wire _ => s

end Sys2Proof.Machine
end

