-- ==== Sys2Proof/Machine/Step.lean ====
section
/-! DEFINITION. One step of the machine: it takes the next input. -/

namespace Sys2Proof.Machine

/-- One step: the next input, taken off the list, is a clock cycle (40_cycle.md R117) or a classification. With nothing
listed the cycle has every input inactive (30_encoding.md R97, R121; log 3). -/
def step (s : State) : Host.Outcome State Fault Refusal :=
  match s.inputs with
  | [] => cycle {} s
  | .cycle c :: rest => cycle c { s with inputs := rest }
  | .classify c :: rest => classify c { s with inputs := rest }

/-- The state in which the instruction of the table's `nbits` bits `w` is the next input (log 2, log 14); unchanged where
the bits are no word of the table. -/
def State.withFetchWord (s : State) (nbits w : Nat) : State :=
  match tableWord nbits w with
  | some (op, rx, tx) => placeWord op rx tx s
  | none => s

end Sys2Proof.Machine
end

