-- ==== Sys2Proof/Machine/Program.lean ====
section
/-! DEFINITION. The written syntax and the pseudo-operations (30_encoding.md R97, R98), as inputs of cycles, and runs of
them. -/

namespace Sys2Proof.Machine

/-- `R <addr>` (R97). -/
def lineRead (a : HostAddr) : CycleIn := { host := some (hostWord false a 0) }

/-- `W <addr>, <data>` (R97). -/
def lineWrite (a : HostAddr) (d : Byte) : CycleIn := { host := some (hostWord true a d) }

/-- `NOP`: every input inactive (R97). -/
def lineNop : CycleIn := {}

/-- `RX <byte>` (R97). -/
def lineRx (b : Byte) : CycleIn := { rxValid := true, rxData := b }

/-- `TXR` (R97). -/
def lineTxr : CycleIn := { txReady := true }

/-- Join a host part with stream parts that share its cycle (R97). -/
def joinRx (c : CycleIn) (b : Byte) : CycleIn := { c with rxValid := true, rxData := b }

/-- See `joinRx`. -/
def joinTxr (c : CycleIn) : CycleIn := { c with txReady := true }

/-- `ACK` (R98). -/
def lineAck : CycleIn := lineWrite 0x000 0x01

/-- `FLUSH` (R98). -/
def lineFlush : CycleIn := lineWrite 0x000 0x02

/-- `START` (R98). -/
def lineStart : CycleIn := lineWrite 0x000 0x04

/-- `SRST` (R98). -/
def lineSrst : CycleIn := lineWrite 0x000 0x80

/-- `CLRERR` (R98). -/
def lineClrerr : CycleIn := lineWrite 0x002 0x1F

/-- The window writes of `LOAD`, from payload index `i` on (R98). -/
def loadFrom : Nat → List Byte → List CycleIn
  | _, [] => []
  | i, b :: bs => lineWrite (BitVec.ofNat 10 (0x300 + i)) b :: loadFrom (i + 1) bs

/-- `LOAD c, [p0, ..., pL-1]`: L + 2 cycles (R98). -/
def lineLoad (c : Byte) (p : List Byte) : List CycleIn :=
  lineWrite 0x008 (BitVec.ofNat 8 p.length) :: lineWrite 0x009 c :: loadFrom 0 p

/-- `SEND c, [p...]` (R98). -/
def lineSend (c : Byte) (p : List Byte) : List CycleIn := lineLoad c p ++ [lineStart]

/-- The `SEND` with which a consumer makes a request (44_wire_commands.md R241 to R244). -/
def lineRequest (r : Request) : List CycleIn := lineSend (requestCommand r) (requestPayload r)

/-- One read of `POLLRX` or `POLLTX`; the host repeats it until the condition below holds (R98). -/
def linePoll : CycleIn := lineRead 0x001

/-- `POLLRX` ends when "bit 0 reads 1" (R98). -/
def pollRxDone (o : Outputs) : Bool := o.hRdata.getLsbD 0

/-- `POLLTX` ends when "bit 1 reads 0" (R98). -/
def pollTxDone (o : Outputs) : Bool := !(o.hRdata.getLsbD 1)

/-- The cycles in which the source offers these bytes, one a cycle. -/
def feed (bs : List Byte) : List CycleIn := bs.map lineRx

/-- A run of the listed cycles: "a run of a test program ends when its listed cycles are done" (40_cycle.md R125). -/
def runCycles : List CycleIn → State → Host.Outcome State Fault Refusal
  | [], s => .next s
  | c :: cs, s =>
    match cycle c s with
    | .next t => runCycles cs t
    | .fault f => .fault f
    | .refused r => .refused r

/-- The byte the transmit port transfers in a cycle, if one is: "`tx_valid == 1` and `tx_ready == 1`" (R114). -/
def sinkTakes (c : CycleIn) (s : State) : Option Byte :=
  if c.rst = false ∧ s.tx.state ≠ .idle ∧ c.txReady = true then some (txByte s) else none

/-- The bytes delivered to the sink, in order, over a run; a fault ends it. -/
def sinkBytes : List CycleIn → State → List Byte
  | [], _ => []
  | c :: cs, s =>
    match cycle c s with
    | .next t => (sinkTakes c s).toList ++ sinkBytes cs t
    | .fault _ => []
    | .refused _ => []

end Sys2Proof.Machine
end

