-- ==== Sys2Proof/Safety.lean ====
section
/-! DEFINITION. The invariants of the block (10_state.md R28, R29, R33, R38, R39), and the terms in which statements speak
of the inputs of a run. -/

namespace Sys2Proof.Machine

/-- A buffer holds the bytes `p` from index 0 on, all of them written. -/
def Memory.holds (m : Memory) (p : List Byte) : Prop := ∀ i (h : i < p.length), m.read i = some p[i]

/-- A buffer is canonical and lists no index beyond the capacity. -/
def bufferOk (cfg : Config.Params) (m : Memory) : Prop :=
  m.wf = true ∧ ∀ i, (m.read i).isSome = true → i < cfg.maxPayload.toNat

/-- The running checksum covers the length, the command and the `idx` payload bytes so far, which the buffer holds
(R28, R38). -/
def sumSoFar (m : Memory) (acc len cmd idx : Byte) : Prop :=
  ∃ p : List Byte, p.length = idx.toNat ∧ m.holds p ∧ acc = xorBytes (len :: cmd :: p)

/-- What each parser state implies of the other registers (R28, R29, R33). -/
def parserStateOk (cfg : Config.Params) (r : Parser) : Prop :=
  match r.state with
  | .hunt => True
  | .pre2 => True
  | .dir => r.acc = 0 ∧ r.idx = 0
  | .len => r.acc = 0 ∧ r.idx = 0
  | .cmd => r.len ≤ cfg.maxPayload ∧ r.acc = r.len
  | .data => r.len ≤ cfg.maxPayload ∧ r.idx < r.len ∧ sumSoFar r.buf r.acc r.len r.cmd r.idx
  | .csum => r.len ≤ cfg.maxPayload ∧ r.idx = r.len ∧ sumSoFar r.buf r.acc r.len r.cmd r.idx
  | .hold => r.len ≤ cfg.maxPayload ∧ r.idx = r.len ∧ sumSoFar r.buf r.acc r.len r.cmd r.idx ∧ r.result = .ok ∧
      r.csum = r.acc

/-- The pulses: `sof_q` only in the cycle after a frame's start, `eof_q` only in the cycle after its end (R31, R32). -/
def pulsesOk (r : Parser) : Prop :=
  (r.sofQ = true → r.state = .dir ∧ r.eofQ = false) ∧ (r.eofQ = true → r.state = .hunt ∨ r.state = .hold)

/-- What each encoder state implies of the other registers (R38, R39, R132). -/
def encoderStateOk (cfg : Config.Params) (t : Encoder) : Prop :=
  match t.state with
  | .idle => True
  | .pre1 | .pre2 | .dir | .len => t.len ≤ cfg.maxPayload ∧ t.acc = 0 ∧ t.idx = 0
  | .cmd => t.len ≤ cfg.maxPayload ∧ t.acc = t.len ∧ t.idx = 0
  | .data => t.len ≤ cfg.maxPayload ∧ t.idx < t.len ∧ sumSoFar t.buf t.acc t.len t.cmd t.idx
  | .csum => t.len ≤ cfg.maxPayload ∧ t.idx = t.len ∧ sumSoFar t.buf t.acc t.len t.cmd t.idx

/-- The invariant of the block. -/
def Inv (s : State) : Prop :=
  bufferOk s.cfg s.rx.buf ∧ bufferOk s.cfg s.tx.buf ∧ parserStateOk s.cfg s.rx ∧ pulsesOk s.rx ∧
    encoderStateOk s.cfg s.tx

/-- The state after a cycle in which only the pulses change and the host port drives `rd` (R121, R151). -/
def quietNext (rd : Byte) (s : State) : State :=
  { s with rx := { s.rx with sofQ := false, eofQ := false }, out := ports rd s }

/-- The state after a host write that changes nothing: the pulses, the ports with the free `h_rdata` of a write, and the
count of writes (log 15). -/
def writeNext (s : State) : State :=
  { quietNext (Config.writeReadData s.writes) s with writes := s.writes + 1 }

/-- A frame is in progress: it has started and has not ended (42_parser.md R164). -/
def inFrame (r : Parser) : Bool :=
  match r.state with
  | .dir | .len | .cmd | .data | .csum => true
  | .hunt | .pre2 | .hold => false

/-- The flag that the byte `b` raises in the parser state `r`, by the rules' own conditions: DESYNC (R152, R153),
LEN_OVERFLOW (R155) or CSUM_MISMATCH (R158), else none. -/
def parserEvent (cfg : Config.Params) (r : Parser) (b : Byte) : BitVec 5 :=
  match r.state with
  | .hunt => if b = cfg.pre1 then 0 else 0b00001
  | .pre2 => if b = cfg.pre2 then 0 else 0b00001
  | .len => if b ≤ cfg.maxPayload then 0 else 0b00100
  | .csum => if b = r.acc then 0 else 0b00010
  | .dir | .cmd | .data | .hold => 0

/-- The block is quiescent (40_cycle.md R125). -/
def quiescent (s : State) : Prop :=
  (s.rx.state = .hunt ∨ s.rx.state = .hold) ∧ s.tx.state = .idle ∧ s.rx.sofQ = false ∧ s.rx.eofQ = false

/-- The data of a cycle's CTRL write; 0x00 where it makes none (R117). -/
def ctrlData (c : CycleIn) : Byte :=
  match c.host with
  | none => 0
  | some w => if wordWrite w = true ∧ wordAddr w = 0x000 then wordData w else 0

/-- A cycle with neither a hard nor a soft reset. -/
def noReset (c : CycleIn) : Prop := c.rst = false ∧ (ctrlData c).getLsbD 7 = false

/-- A cycle with no reset and no RX_FLUSH: the parser goes on with the frame it is in. -/
def frameGoesOn (c : CycleIn) : Prop := noReset c ∧ (ctrlData c).getLsbD 1 = false

/-- A cycle with no reset, no RX_FLUSH and no RX_ACK: a held frame stays held (20_memory.md R76). -/
def frameStays (c : CycleIn) : Prop := frameGoesOn c ∧ (ctrlData c).getLsbD 0 = false

/-- The bytes the source offers over the listed cycles, in order. -/
def offered (cs : List CycleIn) : List Byte := cs.filterMap rxOffer

/-- The number of cycles in which the sink is ready. -/
def readyCycles (cs : List CycleIn) : Nat := (cs.filter fun c => c.txReady).length

end Sys2Proof.Machine
end

