-- ==== Sys2Proof/Certificates/Slice0/Obligations.lean ====
section
/-! DEFINITION. The statements for the provers, from the numbered rules of spec/. Each docstring cites the rule or the
spec's sentence it formalises, and the log entry where a clause is the model's own choice. -/

open Sys2Proof Sys2Proof.Machine

/-! ## Encodings -/

/-- Decoding the word of a well-formed operation, in the engine states that select its row, gives it back: no operand bit
is dropped (30_encoding.md R88 to R91, R99). Which row a CTRL write is takes the model's choice (log 9). -/
def Obligations.DecodeEncodeRoundTrip : Prop :=
  ∀ (i : Instr) (rx : RxState) (tx : TxState), i.wellFormed = true → rowSelected rx tx i = true →
    decode rx tx (encode i) = .ok i

/-- What the decoder answers fits the row of opcode_table.json it names: format, pattern under the mask, and the engine
state (R99). That it is well formed, the one row taken for a CTRL write, is the model's choice (log 9). -/
def Obligations.DecodedOperationFitsItsTableRow : Prop :=
  ∀ (rx : RxState) (tx : TxState) (op : OpWord) (i : Instr), decode rx tx op = .ok i →
    (tableRow i).fits op = true ∧ i.wellFormed = true ∧ rowSelected rx tx i = true

/-- "A host word that no host row matches is a reserved access" (R99): the words the decoder gives no row are exactly those
with address 0x010 to 0x1FF, and no row of the table fits them. Every other word's row encodes its fields back, with D
ignored on a read (R88). -/
def Obligations.UnmatchedHostWordsAreTheReservedOnes : Prop :=
  ∀ w : HostWord,
    (decodeHost w = .error .reservedAddress ↔ 0x010 ≤ wordAddr w ∧ wordAddr w ≤ 0x1FF) ∧
    (0x010 ≤ wordAddr w ∧ wordAddr w ≤ 0x1FF → ∀ i : Instr, (tableRow i).fits (.host w) = false) ∧
    (∀ i : Instr, decodeHost w = .ok i →
      encode i = .host (hostWord (wordWrite w) (wordAddr w) (if wordWrite w then wordData w else 0)))

/-- Words written out in 95_test_vectors.md section 10 decode to the operations they stand for there; a byte by the state
(R99), a command byte by R240. That the CTRL words 0x40004, 0x40001 and 0x40080 are the command-bit rows and not WR_CTRL,
which matches them too (R99, R192), is the model's choice (log 9). -/
def Obligations.SpecWordsDecode : Prop :=
  decodeHost 0x40801 = .ok (.wrTxLen 0x01) ∧ decodeHost 0x409C4 = .ok (.wrTxCmd 0xC4) ∧
  decodeHost 0x70019 = .ok (.wrTxBuf 0x00 0x19) ∧ decodeHost 0x40004 = .ok (.ctrlTxStart 0 0) ∧
  decodeHost 0x00100 = .ok .rdStatus ∧ decodeHost 0x00A00 = .ok .rdTxCsum ∧
  decodeHost 0x20200 = .ok (.rdRxBuf 0x02) ∧ decodeHost 0x40001 = .ok (.ctrlRxAck 0) ∧
  decodeHost 0x4021F = .ok (.wrErr 0x1F) ∧ decodeHost 0x40080 = .ok (.ctrlSoftReset 0) ∧
  decodeHost 0x30000 = .ok (.rdTxBuf 0x00) ∧
  decodeRx .len 0x0A = .ok (.rxByteLen 0x0A) ∧ decodeTx .csum = .ok .txByteCsum ∧ decodeWire 0xC5 = .ok .cmdGetFix

/-! ## The step -/

/-- A step runs the decoded operation: where the next input is a cycle with one operation, or a classification, and its
word decodes to `i`, the step is `exec i` of the state with that input taken off (R91, R112, R117). Two clauses are the
model's choice: that a classification is an input of its own, which takes no cycle (log 11), and that with nothing listed the
step is an idle cycle (log 3). -/
def Obligations.StepRunsDecodedInstruction : Prop :=
  ∀ (s : State) (rest : List Input) (i : Instr),
    (∀ w, s.inputs = .cycle { host := some w } :: rest → decodeHost w = .ok i →
      step s = exec i { s with inputs := rest }) ∧
    (∀ b, s.inputs = .cycle { rxValid := true, rxData := b } :: rest → decodeRx s.rx.state b = .ok i →
      step s = exec i { s with inputs := rest }) ∧
    (s.inputs = .cycle { txReady := true } :: rest → decodeTx s.tx.state = .ok i →
      step s = exec i { s with inputs := rest }) ∧
    (∀ c, s.inputs = .classify c :: rest → decodeWire c = .ok i → step s = exec i { s with inputs := rest }) ∧
    (s.inputs = [] → step s = cycle {} s)

/-- A reserved access (R92): a read returns 0x00, a write is ignored and sets no flag; only the pulses change, and with a
write the model's count of writes (log 15). No host word is refused. -/
def Obligations.ReservedAccessReadsZeroAndWritesNothing : Prop :=
  ∀ (s : State) (rest : List Input) (w : HostWord), s.inputs = .cycle { host := some w } :: rest →
    (0x010 ≤ wordAddr w ∧ wordAddr w ≤ 0x1FF → step s = .next
      (if wordWrite w = true then writeNext { s with inputs := rest } else quietNext 0 { s with inputs := rest })) ∧
    ∀ r, step s ≠ .refused r

/-- The rows together are the address map: alone in its cycle, a read of `a` drives `MemRead(a, 1)` and changes only the
pulses (R190), and a write does `MemWrite(a, 1, d)` and nothing else (R191). -/
def Obligations.HostAccessesFollowTheAddressMap : Prop :=
  ∀ (s : State) (rest : List Input) (a : HostAddr) (d : Byte),
    (s.inputs = .cycle { host := some (hostWord false a d) } :: rest →
      (∀ v, memRead a s = .ok v → step s = .next (quietNext v { s with inputs := rest })) ∧
      (∀ f, memRead a s = .error f → step s = .fault f)) ∧
    (s.inputs = .cycle { host := some (hostWord true a d) } :: rest →
      step s = hostCycle (memWrite a d) { s with inputs := rest })

/-- The outputs of every cycle, from its start-of-cycle state, whatever else happens in it (R113 to R116, R294): ready and
valid are 0 in a reset cycle, `tx_data` is 0x00 when not valid, the levels equal STATUS bits 0 to 2, and a read drives
`MemRead`. -/
def Obligations.OutputsFollowTheStartOfCycleState : Prop :=
  ∀ (c : CycleIn) (s t : State), cycle c s = .next t →
    (t.out.rxReady = true ↔ s.rx.state ≠ .hold ∧ c.rst = false) ∧
    (t.out.txValid = true ↔ s.tx.state ≠ .idle ∧ c.rst = false) ∧
    t.out.txData = (if s.tx.state ≠ .idle ∧ c.rst = false then txByte s else 0) ∧
    t.out.rxFrameValid = (statusByte s).getLsbD 0 ∧ t.out.txBusy = (statusByte s).getLsbD 1 ∧
    t.out.errAny = (statusByte s).getLsbD 2 ∧ t.out.rxSof = s.rx.sofQ ∧ t.out.rxEof = s.rx.eofQ ∧
    (c.rst = true ∨ c.host = none → t.out.hRdata = 0) ∧
    (c.rst = false → ∀ w, c.host = some w → wordWrite w = false → memRead (wordAddr w) s = .ok t.out.hRdata)

/-- Idle cycles (R121): no host transaction, no transfer on either port and no reset. "Only `sof_q` and `eof_q` change: each
becomes 0", for any number of them in a row. From a quiescent state not even these change (R125). -/
def Obligations.IdleCycleClearsOnlyThePulses : Prop :=
  ∀ (cs : List CycleIn) (s : State), cs ≠ [] → (∀ c ∈ cs, c.rst = false ∧ c.host = none ∧
      (c.rxValid = true → s.rx.state = .hold) ∧ (c.txReady = true → s.tx.state = .idle)) →
    ∃ t, runCycles cs s = .next t ∧
      { t with out := s.out } = { s with rx := { s.rx with sofQ := false, eofQ := false } } ∧
      (quiescent s → { t with out := s.out } = s)

/-! ## Host reads -/

/-- RD_STATUS (R194): the bits of STATUS, from the live state; only the pulses change. -/
def Obligations.StatusReadsTheLiveState : Prop :=
  ∀ s : State, ∃ v : Byte, exec .rdStatus s = .next (quietNext v s) ∧
    v.getLsbD 0 = decide (s.rx.state = .hold) ∧ v.getLsbD 1 = decide (s.tx.state ≠ .idle) ∧
    v.getLsbD 2 = decide (s.err ≠ 0) ∧ v.getLsbD 3 = false ∧ v.extractLsb' 4 3 = rxStateCode s.rx.state ∧
    v.getLsbD 7 = false

/-- The reads that are not masked: CTRL, ERR, RX_RESULT, TX_LEN, TX_CMD, TX_CSUM, TX_STATE (R193, R195, R197, R202, R204,
R206, R207) and the four ID registers (R208 to R211). Each drives its value and changes only the pulses. -/
def Obligations.UnmaskedReadsDriveTheirRegister : Prop :=
  ∀ s : State,
    exec .rdCtrl s = .next (quietNext 0x00 s) ∧
    exec .rdErr s = .next (quietNext (s.err.setWidth 8) s) ∧
    exec .rdRxResult s = .next (quietNext ((rxResultCode s.rx.result).setWidth 8) s) ∧
    exec .rdTxLen s = .next (quietNext s.tx.len s) ∧
    exec .rdTxCmd s = .next (quietNext s.tx.cmd s) ∧
    exec .rdTxCsum s = .next (quietNext s.tx.csum s) ∧
    exec .rdTxState s = .next (quietNext ((txStateCode s.tx.state).setWidth 8) s) ∧
    exec .rdIdMaxlen s = .next (quietNext s.cfg.maxPayload s) ∧
    exec .rdIdPre1 s = .next (quietNext s.cfg.pre1 s) ∧
    exec .rdIdPre2 s = .next (quietNext s.cfg.pre2 s) ∧
    exec .rdIdDirtx s = .next (quietNext s.cfg.dirTx s)

/-- RX_DIR, RX_LEN, RX_CMD and RX_CSUM read their register in HOLD and 0x00 otherwise (R198 to R201). -/
def Obligations.ReceivedFieldsReadOnlyWhileHeld : Prop :=
  ∀ s : State,
    (s.rx.state = .hold →
      exec .rdRxDir s = .next (quietNext s.rx.dir s) ∧ exec .rdRxLen s = .next (quietNext s.rx.len s) ∧
      exec .rdRxCmd s = .next (quietNext s.rx.cmd s) ∧ exec .rdRxCsum s = .next (quietNext s.rx.csum s)) ∧
    (s.rx.state ≠ .hold →
      exec .rdRxDir s = .next (quietNext 0 s) ∧ exec .rdRxLen s = .next (quietNext 0 s) ∧
      exec .rdRxCmd s = .next (quietNext 0 s) ∧ exec .rdRxCsum s = .next (quietNext 0 s))

/-- RD_RX_BUF (R62, R212): byte `i` of a held frame with `i < rx_len`, else 0x00. A byte no frame has written reads as the
free value of log 5, whatever it is. -/
def Obligations.RxWindowShowsOnlyTheHeldPayload : Prop :=
  ∀ (s : State) (i : Byte),
    (s.rx.state = .hold → i < s.rx.len → ∀ b, s.rx.buf.read i.toNat = some b →
      exec (.rdRxBuf i) s = .next (quietNext b s)) ∧
    (s.rx.state = .hold → i < s.rx.len → ∃ b, exec (.rdRxBuf i) s = .next (quietNext b s)) ∧
    (¬ (s.rx.state = .hold ∧ i < s.rx.len) → exec (.rdRxBuf i) s = .next (quietNext 0 s))

/-- RD_TX_BUF (R213, U3): the stored byte in every encoder state, 0x00 beyond the capacity, a fault for an unwritten byte. -/
def Obligations.TxWindowReadsTheStoredByte : Prop :=
  ∀ (s : State) (i : Byte),
    (i < s.cfg.maxPayload → ∀ b, s.tx.buf.read i.toNat = some b → exec (.rdTxBuf i) s = .next (quietNext b s)) ∧
    (i < s.cfg.maxPayload → s.tx.buf.read i.toNat = none → exec (.rdTxBuf i) s = .fault (.readUnwritten i.toNat)) ∧
    (s.cfg.maxPayload ≤ i → exec (.rdTxBuf i) s = .next (quietNext 0 s))

/-! ## Host writes

`writeNext s` is what an ignored write leaves: the pulses cleared, the ports with the free `h_rdata` of a write, for which the
spec states no value, and the model's count of writes advanced (log 15). -/

/-- A write to a read-only address is ignored and raises nothing (R215): for each `WR_*_IGNORED` row, and for a reserved
address, which has no row, through the step. Only the pulses change, and the model's count of writes (log 15). -/
def Obligations.ReadOnlyWritesAreIgnored : Prop :=
  ∀ (s : State) (i d : Byte),
    exec (.wrStatusIgnored d) s = .next (writeNext s) ∧ exec (.wrRxResultIgnored d) s = .next (writeNext s) ∧
    exec (.wrRxDirIgnored d) s = .next (writeNext s) ∧ exec (.wrRxLenIgnored d) s = .next (writeNext s) ∧
    exec (.wrRxCmdIgnored d) s = .next (writeNext s) ∧ exec (.wrRxCsumIgnored d) s = .next (writeNext s) ∧
    exec (.wrTxCsumIgnored d) s = .next (writeNext s) ∧ exec (.wrTxStateIgnored d) s = .next (writeNext s) ∧
    exec (.wrIdMaxlenIgnored d) s = .next (writeNext s) ∧ exec (.wrIdPre1Ignored d) s = .next (writeNext s) ∧
    exec (.wrIdPre2Ignored d) s = .next (writeNext s) ∧ exec (.wrIdDirtxIgnored d) s = .next (writeNext s) ∧
    exec (.wrRxBufIgnored i d) s = .next (writeNext s) ∧
    ∀ (rest : List Input) (a : HostAddr), 0x010 ≤ a → a ≤ 0x1FF →
      s.inputs = .cycle { host := some (hostWord true a d) } :: rest →
      step s = .next (writeNext { s with inputs := rest })

/-- WR_ERR (R196): clears the flags written as 1, ignores d[7:5]; a flag raised in the same cycle stays 1 (R120, R273),
whatever byte is offered in whatever parser state, and whether or not the encoder sends one. Alone in its cycle the write
changes nothing else; the ports and the count of writes as in log 15, here and in the writes below. -/
def Obligations.ErrWriteClearsFlagsButNotNewOnes : Prop :=
  ∀ (s : State) (d : Byte),
    exec (.wrErr d) s = .next { writeNext s with err := s.err &&& ~~~(d.setWidth 5) } ∧
    ∀ (rest : List Input) (c : CycleIn), s.inputs = .cycle c :: rest → c.rst = false →
      c.host = some (hostWord true 0x002 d) → ¬ (c.txReady = true ∧ sendsUnwritten s = true) →
      ∃ t, step s = .next t ∧
        t.err = (s.err &&& ~~~(d.setWidth 5)) ||| (match rxOffer c with
          | some b => parserEvent s.cfg s.rx b
          | none => 0)

/-- WR_TX_LEN and WR_TX_CMD (R203, R205): stored while the encoder is idle, else refused with TXERR. -/
def Obligations.TxLenAndCmdAreWrittenOnlyWhileIdle : Prop :=
  ∀ (s : State) (d : Byte),
    (s.tx.state = .idle →
      exec (.wrTxLen d) s = .next { writeNext s with tx := { s.tx with len := d } } ∧
      exec (.wrTxCmd d) s = .next { writeNext s with tx := { s.tx with cmd := d } }) ∧
    (s.tx.state ≠ .idle →
      exec (.wrTxLen d) s = .next { writeNext s with err := s.err ||| 0b10000 } ∧
      exec (.wrTxCmd d) s = .next { writeNext s with err := s.err ||| 0b10000 })

/-- WR_TX_BUF (R214): ignored beyond the capacity in every state; stored while idle, and then every other byte reads as
before; else refused with TXERR. -/
def Obligations.TxWindowIsWrittenOnlyWhileIdle : Prop :=
  ∀ (s : State) (i d : Byte),
    (s.cfg.maxPayload ≤ i → exec (.wrTxBuf i d) s = .next (writeNext s)) ∧
    (i < s.cfg.maxPayload → s.tx.state = .idle → ∃ m : Memory,
      exec (.wrTxBuf i d) s = .next { writeNext s with tx := { s.tx with buf := m } } ∧
      (∀ j, m.read j = if j = i.toNat then some d else s.tx.buf.read j) ∧ (s.tx.buf.wf = true → m.wf = true)) ∧
    (i < s.cfg.maxPayload → s.tx.state ≠ .idle →
      exec (.wrTxBuf i d) s = .next { writeNext s with err := s.err ||| 0b10000 })

/-- WR_CTRL (R192), for every data byte: bit 7 is a soft reset only; else bits 1, 0 and 2 are RX_FLUSH (before RX_ACK, R119,
R161), RX_ACK (R160) and TX_START (R132), each on the start-of-cycle state, and d[6:3] is ignored. -/
def Obligations.CtrlWriteRunsItsCommands : Prop :=
  ∀ (s : State) (d : Byte),
    (d.getLsbD 7 = true → exec (.wrCtrl d) s = .next { softReset s with
      out := ports (Config.writeReadData s.writes) s, writes := s.writes + 1 }) ∧
    (d.getLsbD 7 = false → exec (.wrCtrl d) s = .next { writeNext s with
      rx :=
        if d.getLsbD 1 = true then
          if inFrame s.rx = true then { s.rx with state := .hunt, result := .aborted, sofQ := false, eofQ := true }
          else { s.rx with state := .hunt, sofQ := false, eofQ := false }
        else if d.getLsbD 0 = true ∧ s.rx.state = .hold then { s.rx with state := .hunt, sofQ := false, eofQ := false }
        else { s.rx with sofQ := false, eofQ := false }
      tx :=
        if d.getLsbD 2 = true ∧ s.tx.state = .idle ∧ s.tx.len ≤ s.cfg.maxPayload then
          { s.tx with state := .pre1, acc := 0, idx := 0 }
        else s.tx
      err := (s.err ||| (if d.getLsbD 1 = true ∧ inFrame s.rx = true then 0b01000 else 0)) |||
        (if d.getLsbD 2 = true ∧ ¬ (s.tx.state = .idle ∧ s.tx.len ≤ s.cfg.maxPayload) then 0b10000 else 0) })

/-- RX_ACK (R160): releases a held frame, has no effect otherwise; afterwards every RX field and the whole RX window read
0x00, and the registers keep their contents. A write of the row's pattern that has another command bit too is the
WR_CTRL of the same word (log 9). -/
def Obligations.RxAckReleasesTheHeldFrame : Prop :=
  ∀ (s : State) (hi : BitVec 6),
    (hi.getLsbD 0 = false → hi.getLsbD 1 = false →
      (s.rx.state = .hold → ∃ t, exec (.ctrlRxAck hi) s = .next t ∧
        t = { writeNext s with rx := { s.rx with state := .hunt, sofQ := false, eofQ := false } } ∧
        (∀ a, 0x004 ≤ a → a ≤ 0x007 → memRead a t = .ok 0) ∧
        (∀ a, 0x200 ≤ a → a ≤ 0x2FF → memRead a t = .ok 0)) ∧
      (s.rx.state ≠ .hold → exec (.ctrlRxAck hi) s = .next (writeNext s))) ∧
    exec (.ctrlRxAck hi) s = exec (.wrCtrl (0#1 ++ hi ++ 1#1)) s

/-- RX_FLUSH (R161): in DIR to CSUM it raises ABORTED and ends the frame; in PRE2 and HOLD it returns to HUNT without a
flag; in HUNT it has no effect. RX_ACK in the same write changes nothing of this. -/
def Obligations.RxFlushAbandonsTheFrame : Prop :=
  ∀ (s : State) (hi : BitVec 5) (b0 : BitVec 1),
    (hi.getLsbD 0 = false →
      (inFrame s.rx = true → exec (.ctrlRxFlush hi b0) s = .next { writeNext s with
        rx := { s.rx with state := .hunt, result := .aborted, sofQ := false, eofQ := true }
        err := s.err ||| 0b01000 }) ∧
      (inFrame s.rx = false → exec (.ctrlRxFlush hi b0) s = .next { writeNext s with
        rx := { s.rx with state := .hunt, sofQ := false, eofQ := false } })) ∧
    exec (.ctrlRxFlush hi b0) s = exec (.wrCtrl (0#1 ++ hi ++ 1#1 ++ b0)) s

/-- TX_START (R132): refused with TXERR while busy or with `tx_len > P_MAX_PAYLOAD`, else the encoder goes to PRE1 with
`tx_acc` and `tx_idx` cleared; `tx_len = P_MAX_PAYLOAD` is legal. -/
def Obligations.TxStartStartsOrIsRefused : Prop :=
  ∀ (s : State) (hi : BitVec 4) (lo : BitVec 2),
    (lo = 0 →
      (s.tx.state = .idle → s.tx.len ≤ s.cfg.maxPayload → exec (.ctrlTxStart hi lo) s = .next { writeNext s with
        tx := { s.tx with state := .pre1, acc := 0, idx := 0 } }) ∧
      (s.tx.state ≠ .idle ∨ s.cfg.maxPayload < s.tx.len → exec (.ctrlTxStart hi lo) s = .next { writeNext s with
        err := s.err ||| 0b10000 })) ∧
    exec (.ctrlTxStart hi lo) s = exec (.wrCtrl (0#1 ++ hi ++ 1#1 ++ lo)) s

/-- SOFT_RESET takes precedence over everything else in its cycle (R118): whatever byte is offered and whether or not the
sink is ready, the next state is the reset state with both buffers kept (R293), and no event reaches `err`; a cycle that
transfers an unwritten byte apart, the model's choice (log 8). A hard reset takes precedence over it in the same way. Alone
in its cycle it is the row CTRL.SOFT_RESET. Ports and count as in log 15. -/
def Obligations.SoftResetOverridesItsCycle : Prop :=
  ∀ (s : State) (rest : List Input) (lo : BitVec 7) (c : CycleIn),
    exec (.ctrlSoftReset lo) s = .next { softReset s with
      out := ports (Config.writeReadData s.writes) s, writes := s.writes + 1 } ∧
    (s.inputs = .cycle c :: rest → c.host = some (hostWord true 0x000 (1#1 ++ lo)) →
      (c.rst = false → ¬ (c.txReady = true ∧ sendsUnwritten s = true) →
        step s = .next { softReset { s with inputs := rest } with
          out := ports (Config.writeReadData s.writes) s, writes := s.writes + 1 }) ∧
      (c.rst = true → step s = .next { hardReset { s with inputs := rest } with out := resetPorts s }))

/-! ## Receive transfers -/

/-- RX_BYTE in HUNT (R152): a candidate first preamble byte, or DESYNC. -/
def Obligations.HuntTakesOnlyTheFirstPreambleByte : Prop :=
  ∀ (s : State) (b : Byte), s.rx.state = .hunt →
    (b = s.cfg.pre1 → exec (.rxByteHunt b) s = .next { quietNext 0 s with
      rx := { s.rx with state := .pre2, sofQ := false, eofQ := false } }) ∧
    (b ≠ s.cfg.pre1 → exec (.rxByteHunt b) s = .next { quietNext 0 s with err := s.err ||| 0b00001 })

/-- RX_BYTE in PRE2 (R153): `P_PRE2` starts a frame, also where it equals `P_PRE1`; else DESYNC, and a `P_PRE1` is the new
scan start. -/
def Obligations.SecondPreambleByteStartsTheFrame : Prop :=
  ∀ (s : State) (b : Byte), s.rx.state = .pre2 →
    (b = s.cfg.pre2 → exec (.rxBytePre2 b) s = .next { quietNext 0 s with
      rx := { s.rx with state := .dir, acc := 0, idx := 0, sofQ := true, eofQ := false } }) ∧
    (b ≠ s.cfg.pre2 → b = s.cfg.pre1 → exec (.rxBytePre2 b) s = .next { quietNext 0 s with
      err := s.err ||| 0b00001 }) ∧
    (b ≠ s.cfg.pre2 → b ≠ s.cfg.pre1 → exec (.rxBytePre2 b) s = .next { quietNext 0 s with
      rx := { s.rx with state := .hunt, sofQ := false, eofQ := false }, err := s.err ||| 0b00001 })

/-- RX_BYTE in DIR and in CMD (R154, R156): captured unchecked; the direction byte does not enter the checksum. -/
def Obligations.DirectionAndCommandAreCapturedUnchecked : Prop :=
  ∀ (s : State) (b : Byte),
    (s.rx.state = .dir → exec (.rxByteDir b) s = .next { quietNext 0 s with
      rx := { s.rx with dir := b, state := .len, sofQ := false, eofQ := false } }) ∧
    (s.rx.state = .cmd → exec (.rxByteCmd b) s = .next { quietNext 0 s with
      rx := { s.rx with cmd := b, acc := s.rx.acc ^^^ b, idx := 0, sofQ := false, eofQ := false,
                        state := if s.rx.len = 0 then .csum else .data } })

/-- RX_BYTE in LEN (R155): captured and bounded; above `P_MAX_PAYLOAD` the frame ends with LEN_OVERFLOW. -/
def Obligations.LengthByteIsBounded : Prop :=
  ∀ (s : State) (b : Byte), s.rx.state = .len →
    (b ≤ s.cfg.maxPayload → exec (.rxByteLen b) s = .next { quietNext 0 s with
      rx := { s.rx with len := b, acc := s.rx.acc ^^^ b, state := .cmd, sofQ := false, eofQ := false } }) ∧
    (s.cfg.maxPayload < b → exec (.rxByteLen b) s = .next { quietNext 0 s with
      rx := { s.rx with len := b, acc := s.rx.acc ^^^ b, state := .hunt, result := .lenOverflow, sofQ := false,
                        eofQ := true }
      err := s.err ||| 0b00100 })

/-- RX_BYTE in DATA (R157): the byte is stored at `rx_idx` and every other buffer byte reads as before; that no state with
`rx_idx` beyond the capacity is treated apart is the model's choice (log 16), and no run reaches one. -/
def Obligations.PayloadByteIsStoredAtItsIndex : Prop :=
  ∀ (s : State) (b : Byte), s.rx.state = .data → ∃ m : Memory,
    exec (.rxByteData b) s = .next { quietNext 0 s with
      rx := { s.rx with buf := m, acc := s.rx.acc ^^^ b, idx := s.rx.idx + 1, sofQ := false, eofQ := false,
                        state := if s.rx.idx + 1 = s.rx.len then .csum else .data } } ∧
    (∀ j, m.read j = if j = s.rx.idx.toNat then some b else s.rx.buf.read j) ∧ (s.rx.buf.wf = true → m.wf = true)

/-- RX_BYTE in CSUM (R158): a match holds the frame, a mismatch discards it with CSUM_MISMATCH. -/
def Obligations.ChecksumByteDecidesTheFrame : Prop :=
  ∀ (s : State) (b : Byte), s.rx.state = .csum →
    (b = s.rx.acc → exec (.rxByteCsum b) s = .next { quietNext 0 s with
      rx := { s.rx with csum := b, state := .hold, result := .ok, sofQ := false, eofQ := true } }) ∧
    (b ≠ s.rx.acc → exec (.rxByteCsum b) s = .next { quietNext 0 s with
      rx := { s.rx with csum := b, state := .hunt, result := .csumMismatch, sofQ := false, eofQ := true }
      err := s.err ||| 0b00010 })

/-! ## Transmit transfers -/

/-- TX_BYTE in PRE1, PRE2 and DIR (R133 to R135): the port carries `P_PRE1`, `P_PRE2`, `P_DIR_TX` and only the state
moves; in LEN and CMD (R136, R137) the length and the command are sent and enter the checksum; `tx_len = 0` skips DATA. -/
def Obligations.HeaderIsSentFieldByField : Prop :=
  ∀ s : State,
    (s.tx.state = .pre1 → (ports 0 s).txData = s.cfg.pre1 ∧
      exec .txBytePre1 s = .next { quietNext 0 s with tx := { s.tx with state := .pre2 } }) ∧
    (s.tx.state = .pre2 → (ports 0 s).txData = s.cfg.pre2 ∧
      exec .txBytePre2 s = .next { quietNext 0 s with tx := { s.tx with state := .dir } }) ∧
    (s.tx.state = .dir → (ports 0 s).txData = s.cfg.dirTx ∧
      exec .txByteDir s = .next { quietNext 0 s with tx := { s.tx with state := .len } }) ∧
    (s.tx.state = .len → (ports 0 s).txData = s.tx.len ∧
      exec .txByteLen s = .next { quietNext 0 s with
        tx := { s.tx with acc := s.tx.acc ^^^ s.tx.len, state := .cmd } }) ∧
    (s.tx.state = .cmd → (ports 0 s).txData = s.tx.cmd ∧
      exec .txByteCmd s = .next { quietNext 0 s with
        tx := { s.tx with acc := s.tx.acc ^^^ s.tx.cmd, state := if s.tx.len = 0 then .csum else .data } })

/-- TX_BYTE in DATA (R138): payload byte `tx_idx` is sent and enters the checksum; an unwritten byte is a fault (U3). That no
state with `tx_idx` beyond the capacity is treated apart is the model's choice (log 16), and no run reaches one. -/
def Obligations.PayloadByteIsSentAndSummed : Prop :=
  ∀ s : State, s.tx.state = .data →
    (∀ b, s.tx.buf.read s.tx.idx.toNat = some b → (ports 0 s).txData = b ∧
      exec .txByteData s = .next { quietNext 0 s with
        tx := { s.tx with acc := s.tx.acc ^^^ b, idx := s.tx.idx + 1,
                          state := if s.tx.idx + 1 = s.tx.len then .csum else .data } }) ∧
    (s.tx.buf.read s.tx.idx.toNat = none → exec .txByteData s = .fault (.sendUnwritten s.tx.idx.toNat))

/-- TX_BYTE in CSUM (R139): the running checksum is sent, kept in `tx_csum`, and the encoder is idle. -/
def Obligations.ChecksumByteIsSentAndKept : Prop :=
  ∀ s : State, s.tx.state = .csum → (ports 0 s).txData = s.tx.acc ∧
    exec .txByteCsum s = .next { quietNext 0 s with tx := { s.tx with csum := s.tx.acc, state := .idle } }

/-- A stream row in a state that does not select it is refused by name, and changes nothing: the model's choice (log 10).
"A stream row also names, in `fields.state`, the engine state that selects its arm" (R99). -/
def Obligations.StreamRowsNeedTheirState : Prop :=
  ∀ (i : Instr) (s : State), rowSelected s.rx.state s.tx.state i = false ↔ exec i s = .refused .armNotSelected

/-! ## Wire commands -/

/-- The wire-command rows classify a stored command byte and move nothing in the block (R99, R245); that they record it in
the model's field `wire` is the model's choice (log 11). -/
def Obligations.WireRowsOnlyClassify : Prop :=
  ∀ s : State, ∃ r1 r2 r3 r4 : WireReport,
    exec .cmdGetConfig s = .next { s with wire := some r1 } ∧ exec .cmdSetConfig s = .next { s with wire := some r2 } ∧
    exec .cmdGetFix s = .next { s with wire := some r3 } ∧ exec .cmdEchoTest s = .next { s with wire := some r4 } ∧
    r1.command = 0xC3 ∧ r2.command = 0xC4 ∧ r3.command = 0xC5 ∧ r4.command = 0xC6 ∧
    ∀ r ∈ [r1, r2, r3, r4], (r.held = true ↔ s.rx.state = .hold ∧ s.rx.cmd = r.command) ∧
      (r.loaded = true ↔ s.tx.cmd = r.command)

/-- The responses a consumer reads from a held frame with payload `p` (R241 to R244): GET_CONFIG, SET_CONFIG and GET_FIX
only with their command and their length, a fix exactly with RX_CMD 0xC5 and RX_LEN 0x0A (R250), its `x` and `y` most
significant byte first (R247); ECHO_TEST with any payload that has a size byte. The report is the model's (log 11). -/
def Obligations.HeldResponsesAreReadByTheirContracts : Prop :=
  ∀ (s : State) (p : List Byte), s.rx.buf.holds p → p.length = s.rx.len.toNat →
    ∃ (r1 r2 r3 r4 : WireReport) (x y : BitVec 32),
      exec .cmdGetConfig s = .next { s with wire := some r1 } ∧ exec .cmdSetConfig s = .next { s with wire := some r2 } ∧
      exec .cmdGetFix s = .next { s with wire := some r3 } ∧ exec .cmdEchoTest s = .next { s with wire := some r4 } ∧
      r1.response = (if s.rx.state = .hold ∧ s.rx.cmd = 0xC3 ∧ s.rx.len = 2 then
        some (.getConfig (p.getD 0 0) (p.getD 1 0)) else none) ∧
      r2.response = (if s.rx.state = .hold ∧ s.rx.cmd = 0xC4 ∧ s.rx.len = 1 then
        some (.setConfig (p.getD 0 0)) else none) ∧
      r3.response = (if s.rx.state = .hold ∧ s.rx.cmd = 0xC5 ∧ s.rx.len = 10 then
        some (.getFix (p.getD 0 0) (p.getD 1 0) x y) else none) ∧
      x.toNat = (p.getD 2 0).toNat * 2 ^ 24 + (p.getD 3 0).toNat * 2 ^ 16 + (p.getD 4 0).toNat * 2 ^ 8 +
        (p.getD 5 0).toNat ∧
      y.toNat = (p.getD 6 0).toNat * 2 ^ 24 + (p.getD 7 0).toNat * 2 ^ 16 + (p.getD 8 0).toNat * 2 ^ 8 +
        (p.getD 9 0).toNat ∧
      r4.response = (if s.rx.state = .hold ∧ s.rx.cmd = 0xC6 ∧ p ≠ [] then
        some (.echoTest (p.getD 0 0) p.tail) else none)

/-! ## Reset -/

/-- The reset table (R291), in both columns: after a hard reset from any state, and in `State.reset`, every register has
its value and no buffer byte is listed; after a soft reset the buffers are kept. So the host reads 0x00 at 0x000 to
0x00B and the parameters at 0x00C to 0x00F. -/
def Obligations.ResetTableHolds : Prop :=
  ∀ (s : State) (c : CycleIn) (lo : BitVec 7),
    (c.rst = true → ∃ t, cycle c s = .next t ∧ t.rx = State.reset.rx ∧ t.tx = State.reset.tx ∧ t.err = 0 ∧
      t.cfg = s.cfg ∧ t.inputs = s.inputs) ∧
    State.reset.rx = { state := .hunt, dir := 0, len := 0, cmd := 0, csum := 0, acc := 0, idx := 0, result := .none,
                       sofQ := false, eofQ := false, buf := [] } ∧
    State.reset.tx = { state := .idle, len := 0, cmd := 0, acc := 0, idx := 0, csum := 0, buf := [] } ∧
    State.reset.err = 0 ∧
    (∃ t, exec (.ctrlSoftReset lo) s = .next t ∧ t.rx = { State.reset.rx with buf := s.rx.buf } ∧
      t.tx = { State.reset.tx with buf := s.tx.buf } ∧ t.err = 0) ∧
    (s.rx = { State.reset.rx with buf := s.rx.buf } → s.tx = { State.reset.tx with buf := s.tx.buf } → s.err = 0 →
      (∀ a, a ≤ 0x00B → memRead a s = .ok 0) ∧ (∀ a, 0x200 ≤ a → a ≤ 0x2FF → memRead a s = .ok 0) ∧
      memRead 0x00C s = .ok s.cfg.maxPayload ∧ memRead 0x00D s = .ok s.cfg.pre1 ∧
      memRead 0x00E s = .ok s.cfg.pre2 ∧ memRead 0x00F s = .ok s.cfg.dirTx)

/-- A cycle with `rst == 1` (R290, R294): no port is ready or valid, `h_rdata` is 0x00, the levels and pulses are those of
the start-of-cycle state, the host access and both transfers are ignored, and any number of reset cycles in a row leaves
the same registers as one. In the first cycle after it the ports reflect the reset state: ready 1, valid 0, all levels and
pulses 0. -/
def Obligations.HardResetIgnoresItsCycle : Prop :=
  ∀ (s t : State) (c : CycleIn), c.rst = true → cycle c s = .next t →
    t.out = { hRdata := 0, rxReady := false, txValid := false, txData := 0, rxFrameValid := decide (s.rx.state = .hold),
              txBusy := decide (s.tx.state ≠ .idle), errAny := decide (s.err ≠ 0), rxSof := s.rx.sofQ,
              rxEof := s.rx.eofQ } ∧
    cycle c s = cycle { rst := true } s ∧
    (∀ (cs : List CycleIn), (∀ x ∈ cs, x.rst = true) → ∃ u, runCycles cs t = .next u ∧ u.rx = t.rx ∧ u.tx = t.tx ∧
      u.err = t.err ∧ u.cfg = t.cfg) ∧
    (∀ (c' : CycleIn) (u : State), c'.rst = false → cycle c' t = .next u → u.out.rxReady = true ∧
      u.out.txValid = false ∧ u.out.txData = 0 ∧ u.out.rxFrameValid = false ∧ u.out.txBusy = false ∧
      u.out.errAny = false ∧ u.out.rxSof = false ∧ u.out.rxEof = false)

/-! ## Invariants and whole-machine rules -/

/-- The invariant of Safety.lean (R28, R29, R31 to R33, R38, R39; canonical buffers within the capacity) holds after reset,
for every build. -/
def Obligations.ResetMeetsTheInvariant : Prop :=
  ∀ (cfg : Config.Params) (ins : List Input), Inv { State.reset with cfg := cfg, inputs := ins }

/-- Every step keeps the invariant, from every state that meets it, whatever the inputs. -/
def Obligations.StepKeepsTheInvariant : Prop :=
  ∀ s t : State, Inv s → step s = .next t → Inv t

/-- In every state reachable from reset, in every build and under all inputs, R33 (a) to (c) hold, every payload byte of a
held frame is written (R33 (d)), and the running checksums are R28's and R38's. -/
def Obligations.ReachableStatesMeetTheSpecInvariants : Prop :=
  ∀ (cfg : Config.Params) (ins : List Input) (n : Nat) (t : State),
    Host.Core.run Sys2Proof.core n ({ State.reset with cfg := cfg, inputs := ins } : State) = .next t →
    (t.rx.state = .hold → t.rx.result = .ok ∧ t.rx.len ≤ t.cfg.maxPayload ∧ t.rx.idx = t.rx.len ∧
      t.rx.csum = t.rx.acc) ∧
    (t.rx.state = .data → 1 ≤ t.rx.len ∧ t.rx.len ≤ t.cfg.maxPayload ∧ t.rx.idx < t.rx.len) ∧
    (t.rx.state = .cmd ∨ t.rx.state = .data ∨ t.rx.state = .csum → t.rx.len ≤ t.cfg.maxPayload) ∧
    (t.rx.state = .csum ∨ t.rx.state = .hold → ∃ p, p.length = t.rx.len.toNat ∧ t.rx.buf.holds p ∧
      t.rx.acc = xorBytes (t.rx.len :: t.rx.cmd :: p)) ∧
    (t.tx.state = .csum → ∃ p, p.length = t.tx.len.toNat ∧ t.tx.buf.holds p ∧
      t.tx.acc = xorBytes (t.tx.len :: t.tx.cmd :: p))

/-- The build parameters never change: "Neither reset changes them, and no register writes them" (R296). -/
def Obligations.NoStepChangesTheParameters : Prop :=
  ∀ s t : State, step s = .next t → t.cfg = s.cfg

/-- No step is ever refused: every host word, received byte and transfer has an effect (R94, R260). A step faults exactly
where U3 asks for it: a host read of an unwritten TX window byte within the capacity, or a transfer of an unwritten byte,
outside a reset cycle. That the read's fault is reported where both happen is the model's choice (log 8). -/
def Obligations.StepStopsOnlyOnUnwrittenBytes : Prop :=
  ∀ (s : State) (f : Fault), (∀ r, step s ≠ .refused r) ∧ (step s = .fault f ↔ ∃ (c : CycleIn) (rest : List Input), s.inputs = .cycle c :: rest ∧
    c.rst = false ∧
    ((∃ i : Byte, (∃ w, c.host = some w ∧ wordWrite w = false ∧ wordAddr w = 3#2 ++ i) ∧ i < s.cfg.maxPayload ∧
        s.tx.buf.read i.toNat = none ∧ f = .readUnwritten i.toNat) ∨
      ((¬ ∃ i : Byte, (∃ w, c.host = some w ∧ wordWrite w = false ∧ wordAddr w = 3#2 ++ i) ∧ i < s.cfg.maxPayload ∧
        s.tx.buf.read i.toNat = none) ∧
       c.txReady = true ∧ s.tx.state = .data ∧ s.tx.buf.read s.tx.idx.toNat = none ∧
       f = .sendUnwritten s.tx.idx.toNat)))

/-- A flag is cleared only by a write of 1 to it in ERR, by SOFT_RESET or by reset, and `rx_result` changes only at a frame
end or a reset (R271). -/
def Obligations.FlagsAreSticky : Prop :=
  ∀ (c : CycleIn) (s t : State), cycle c s = .next t →
    (∀ k, s.err.getLsbD k = true → t.err.getLsbD k = false →
      c.rst = true ∨ (ctrlData c).getLsbD 7 = true ∨
        ∃ w, c.host = some w ∧ wordWrite w = true ∧ wordAddr w = 0x002 ∧ (wordData w).getLsbD k = true) ∧
    (t.rx.result ≠ s.rx.result → c.rst = true ∨ (ctrlData c).getLsbD 7 = true ∨ t.rx.eofQ = true)

/-- Frame boundaries (R164): in a cycle without a reset, `sof_q` becomes 1 exactly when the parser enters a frame and
`eof_q` exactly when it leaves one; the end has a result, OK exactly when the frame is held. -/
def Obligations.PulsesMarkTheFrameBoundaries : Prop :=
  ∀ (c : CycleIn) (s t : State), noReset c → cycle c s = .next t →
    t.rx.sofQ = (!(inFrame s.rx) && inFrame t.rx) ∧ t.rx.eofQ = (inFrame s.rx && !(inFrame t.rx)) ∧
    (t.rx.eofQ = true → t.rx.result ≠ .none ∧ (t.rx.result = .ok ↔ t.rx.state = .hold))

/-- A held frame is stable (R76): over any cycles with no RX_ACK, RX_FLUSH or reset, whatever is offered and whatever else
the host does, the parser keeps every register but the two pulses, and takes no byte. -/
def Obligations.HeldFrameIsStable : Prop :=
  ∀ (cs : List CycleIn) (s t : State), s.rx.state = .hold → (∀ c ∈ cs, frameStays c) → runCycles cs s = .next t →
    { t.rx with sofQ := s.rx.sofQ, eofQ := s.rx.eofQ } = s.rx ∧
    (∀ i, rxView t i = rxView s i)

/-- While the sink is not ready no encoder register changes, for any number of cycles and whatever the host does short of a
reset (R123, R141): `tx_valid` and `tx_data` stay as they are. -/
def Obligations.OfferedByteIsStable : Prop :=
  ∀ (cs : List CycleIn) (s t : State), s.tx.state ≠ .idle → (∀ c ∈ cs, noReset c ∧ c.txReady = false) →
    runCycles cs s = .next t → t.tx = s.tx ∧ txByte t = txByte s

/-- The encoder's inputs are locked while it is busy (R143, R298): no cycle short of a reset changes `tx_len`, `tx_cmd` or
`tx_buf`, and every write to one of them within the capacity raises TXERR, whatever else happens in its cycle. -/
def Obligations.EncoderInputsAreLockedWhileBusy : Prop :=
  ∀ (c : CycleIn) (s t : State), s.tx.state ≠ .idle → noReset c → cycle c s = .next t →
    t.tx.len = s.tx.len ∧ t.tx.cmd = s.tx.cmd ∧ t.tx.buf = s.tx.buf ∧
    (∀ w, c.host = some w → wordWrite w = true →
      (wordAddr w = 0x008 ∨ wordAddr w = 0x009 ∨ ∃ i : Byte, wordAddr w = 3#2 ++ i ∧ i < s.cfg.maxPayload) →
      t.err.getLsbD 4 = true)

/-- The receive and the transmit path are independent (R124): with the same host word and parameters, the parser's next
registers do not depend on the encoder or the sink, nor the encoder's on the parser or the source. -/
def Obligations.EnginesAreIndependent : Prop :=
  ∀ (c1 c2 : CycleIn) (s1 s2 t1 t2 : State), c1.rst = c2.rst → c1.host = c2.host → s1.cfg = s2.cfg →
    cycle c1 s1 = .next t1 → cycle c2 s2 = .next t2 →
    (rxOffer c1 = rxOffer c2 → s1.rx = s2.rx → t1.rx = t2.rx) ∧
    (c1.txReady = c2.txReady → s1.tx = s2.tx → t1.tx = t2.tx)

/-- A frame that is not held leaves nothing visible (R165, U2): two states that differ only in the captured fields, the
running checksum, the index and the buffer of a parser outside HOLD read alike at every address and drive the same
outputs. -/
def Obligations.UnheldFrameIsInvisible : Prop :=
  ∀ (s1 s2 : State), s1.rx.state ≠ .hold → s2.rx.state = s1.rx.state → s2.rx.result = s1.rx.result →
    s2.rx.sofQ = s1.rx.sofQ → s2.rx.eofQ = s1.rx.eofQ → s2.tx = s1.tx → s2.err = s1.err → s2.cfg = s1.cfg →
    s2.resets = s1.resets →
    (∀ a, memRead a s2 = memRead a s1) ∧ (∀ rd, ports rd s2 = ports rd s1)

/-- RX_FLUSH loses the byte of its own cycle (R303), and in HOLD no byte is taken (R113, R159): in either case the cycle is
the same as without the offer. -/
def Obligations.FlushedAndUntakenBytesHaveNoEffect : Prop :=
  ∀ (c : CycleIn) (s : State), c.rst = false → (ctrlData c).getLsbD 1 = true ∨ s.rx.state = .hold →
    cycle c s = cycle { c with rxValid := false } s

/-- "A TX_START in cycle `t` itself is refused with TXERR" (R299): in the cycle that transfers the checksum byte the frame
ends all the same, and in the next cycle TX_START succeeds. -/
def Obligations.StartInTheChecksumCycleIsRefused : Prop :=
  ∀ (s t : State) (c : CycleIn), s.tx.state = .csum → noReset c → (ctrlData c).getLsbD 2 = true → c.txReady = true →
    cycle c s = .next t →
    t.tx = { s.tx with csum := s.tx.acc, state := .idle } ∧ t.err.getLsbD 4 = true ∧
    (t.tx.len ≤ t.cfg.maxPayload → ∃ u, exec (.ctrlTxStart 0 0) t = .next u ∧ u.tx.state = .pre1)

/-! ## Runs -/

/-- `runCycles` is the machine's own run of the listed cycles (R125): as many steps of the core take them off the list. -/
def Obligations.RunsOfCyclesAreSteps : Prop :=
  ∀ (cs : List CycleIn) (rest : List Input) (s : State),
    Host.Core.run Sys2Proof.core cs.length ({ s with inputs := cs.map Input.cycle ++ rest } : State) =
      runCycles cs { s with inputs := rest }

/-- `LOAD c, [p...]` (R98) takes L + 2 cycles and leaves the idle encoder with the length, the command and the payload, and
every other TX window byte as before. -/
def Obligations.LoadLoadsTheFrame : Prop :=
  ∀ (s : State) (c : Byte) (p : List Byte), s.tx.state = .idle → p.length ≤ s.cfg.maxPayload.toNat →
    (lineLoad c p).length = p.length + 2 ∧
    ∃ t, runCycles (lineLoad c p) s = .next t ∧ t.tx.state = .idle ∧ t.tx.len = BitVec.ofNat 8 p.length ∧ t.tx.cmd = c ∧
      t.tx.buf.holds p ∧ (∀ j, p.length ≤ j → t.tx.buf.read j = s.tx.buf.read j) ∧ t.err = s.err

/-- The encoder emits exactly the frame (R140): after a TX_START that finds length L, command C and payload P, the k-th
transfer carries byte k of `Encode(C, P)`, whatever the number of cycles between transfers and whatever the host does
short of a reset; with the last transfer the encoder is idle and `tx_csum` is the checksum. -/
def Obligations.EncoderEmitsExactlyTheFrame : Prop :=
  ∀ (s s1 t : State) (start : CycleIn) (p : List Byte) (cs : List CycleIn),
    s.tx.state = .idle → s.tx.len = BitVec.ofNat 8 p.length → p.length ≤ s.cfg.maxPayload.toNat → s.tx.buf.holds p →
    noReset start → (ctrlData start).getLsbD 2 = true → cycle start s = .next s1 →
    (∀ c ∈ cs, noReset c) → readyCycles cs ≤ 6 + p.length → runCycles cs s1 = .next t →
    sinkBytes cs s1 = (encodeFrame s.cfg s.tx.cmd p).take (readyCycles cs) ∧
    (readyCycles cs = 6 + p.length → cs.getLast?.map CycleIn.txReady = some true →
      t.tx.state = .idle ∧ t.tx.csum = checksum s.tx.cmd p)

/-- The counts of R306: with the sink always ready a frame of length L takes 6 + L transfers, and the encoder is busy after
each but the last; with a byte a cycle the parser holds the frame after its 6 + L bytes and not before. -/
def Obligations.FrameTakesSixPlusLengthCycles : Prop :=
  ∀ (s : State) (p : List Byte) (k : Nat), p.length ≤ s.cfg.maxPayload.toNat → k ≤ 6 + p.length →
    (s.tx.state = .idle → s.tx.len = BitVec.ofNat 8 p.length → s.tx.buf.holds p → ∃ t,
      runCycles (lineStart :: List.replicate k lineTxr) s = .next t ∧ (t.tx.state = .idle ↔ k = 6 + p.length)) ∧
    (s.rx.state = .hunt → ∀ c, ∃ t,
      runCycles (feed ((encodeFrame s.cfg c p).take k)) s = .next t ∧ (t.rx.state = .hold ↔ k = 6 + p.length))

/-- The validator's verdict (R166, with R144's fields): a started frame of length L <= `P_MAX_PAYLOAD`, command C, payload P
and checksum byte K ends in HOLD iff K is the XOR of L, C and P, whatever the direction byte, the preamble and what stood
before it, the gaps between the bytes and the other host accesses. In HOLD the fields and the payload are the frame's; otherwise the frame is discarded with
CSUM_MISMATCH. -/
def Obligations.FrameVerdictIsTheChecksum : Prop :=
  ∀ (s t : State) (cs : List CycleIn) (pre : List Byte) (dir c k : Byte) (p : List Byte),
    (s.rx.state = .hunt ∧ pre = [s.cfg.pre1, s.cfg.pre2]) ∨ (s.rx.state = .pre2 ∧ pre = [s.cfg.pre2]) →
    p.length ≤ s.cfg.maxPayload.toNat → (∀ x ∈ cs, frameGoesOn x) →
    offered cs = pre ++ [dir, BitVec.ofNat 8 p.length, c] ++ p ++ [k] →
    cs.getLast?.map CycleIn.rxValid = some true → runCycles cs s = .next t →
    (t.rx.state = .hold ↔ k = xorBytes (BitVec.ofNat 8 p.length :: c :: p)) ∧
    (t.rx.state = .hold → t.rx.result = .ok ∧ t.rx.dir = dir ∧ t.rx.len = BitVec.ofNat 8 p.length ∧ t.rx.cmd = c ∧
      t.rx.csum = k ∧ t.rx.buf.holds p) ∧
    (t.rx.state ≠ .hold → t.rx.state = .hunt ∧ t.rx.result = .csumMismatch ∧ t.err.getLsbD 1 = true)

/-- Resynchronization (R163): where `P_PRE1 != P_PRE2` and the garbage G holds no pair `P_PRE1 P_PRE2`, G and then
`Encode(C, P)` leave the parser holding that frame; no frame starts within G, and DESYNC is set iff G is not empty. -/
def Obligations.ParserResynchronizesAfterGarbage : Prop :=
  ∀ (s : State) (g p : List Byte) (c : Byte), s.cfg.pre1 ≠ s.cfg.pre2 → s.rx.state = .hunt →
    p.length ≤ s.cfg.maxPayload.toNat → (∀ i, ¬ (g[i]? = some s.cfg.pre1 ∧ g[i + 1]? = some s.cfg.pre2)) →
    (∃ t, runCycles (feed (g ++ encodeFrame s.cfg c p)) s = .next t ∧ t.rx.state = .hold ∧ t.rx.result = .ok ∧
      t.rx.cmd = c ∧ t.rx.len = BitVec.ofNat 8 p.length ∧ t.rx.buf.holds p ∧
      t.err = s.err ||| (if g = [] then 0b00000 else 0b00001)) ∧
    (∀ n, n ≤ g.length → ∃ u, runCycles (feed (g.take n)) s = .next u ∧ (u.rx.state = .hunt ∨ u.rx.state = .pre2) ∧
      u.rx.sofQ = (s.rx.sofQ && decide (n = 0)))

/-- Round trip (R144): the bytes one block's encoder puts on its transmit port for command C and payload P, fed to a parser
in HUNT with the same preamble and a capacity for L, leave it holding L, C, P and the sender's direction marker. -/
def Obligations.SentFrameIsReceived : Prop :=
  ∀ (s s1 u r : State) (p : List Byte) (cs : List CycleIn),
    s.tx.state = .idle → s.tx.len = BitVec.ofNat 8 p.length → p.length ≤ s.cfg.maxPayload.toNat → s.tx.buf.holds p →
    cycle lineStart s = .next s1 → (∀ c ∈ cs, noReset c) → readyCycles cs = 6 + p.length →
    runCycles cs s1 = .next u →
    r.rx.state = .hunt → r.cfg.pre1 = s.cfg.pre1 → r.cfg.pre2 = s.cfg.pre2 → p.length ≤ r.cfg.maxPayload.toNat →
    ∃ t, runCycles (feed (sinkBytes cs s1)) r = .next t ∧ t.rx.state = .hold ∧ t.rx.result = .ok ∧
      t.rx.dir = s.cfg.dirTx ∧ t.rx.len = BitVec.ofNat 8 p.length ∧ t.rx.cmd = s.tx.cmd ∧ t.rx.buf.holds p ∧
      t.err = r.err

/-- A single bit flipped in the command, a payload byte or the checksum byte of a frame ends it with CSUM_MISMATCH (R170
(a)): the parser is back in HUNT, CSUM is set, and the RX registers and the RX window read 0x00 (R165). -/
def Obligations.SingleBitCorruptionIsRejected : Prop :=
  ∀ (s : State) (dir c : Byte) (p : List Byte) (j k : Nat), s.rx.state = .hunt →
    p.length ≤ s.cfg.maxPayload.toNat → j < p.length + 2 → k < 8 →
    ∃ t, runCycles (feed ([s.cfg.pre1, s.cfg.pre2, dir, BitVec.ofNat 8 p.length] ++
        (c :: p ++ [checksum c p]).modify j (fun b => b ^^^ (1#8 <<< k)))) s = .next t ∧
      t.rx.state = .hunt ∧ t.rx.result = .csumMismatch ∧ t.err = s.err ||| 0b00010 ∧
      (∀ a, 0x004 ≤ a → a ≤ 0x007 → memRead a t = .ok 0) ∧ (∀ a, 0x200 ≤ a → a ≤ 0x2FF → memRead a t = .ok 0)

/-- The checksum laws (R142): (a) the bytes from the length through the checksum XOR to 0x00; (b) changing one bit of the
length, command or payload changes the checksum in exactly that bit; (c) the checksum does not depend on the
parameters. -/
def Obligations.ChecksumLaws : Prop :=
  (∀ (cfg : Config.Params) (c : Byte) (p : List Byte), xorBytes ((encodeFrame cfg c p).drop 3) = 0) ∧
  (∀ (l c : Byte) (p : List Byte) (j k : Nat), j < p.length + 2 → k < 8 →
    xorBytes ((l :: c :: p).modify j (fun b => b ^^^ (1#8 <<< k))) = xorBytes (l :: c :: p) ^^^ (1#8 <<< k)) ∧
  (∀ (cfg cfg' : Config.Params) (c : Byte) (p : List Byte),
    (encodeFrame cfg c p).getLast? = (encodeFrame cfg' c p).getLast?)
end

