-- ==== Sys2Proof/Laws/Memory.lean ====
section
/-! SUPPORT. The buffers: a write keeps the canonical form, and read after write. -/

namespace Sys2Proof.Machine

@[simp] theorem Memory.read_nil (i : Nat) : Memory.read [] i = none := rfl

@[simp] theorem Memory.wf_nil : Memory.wf [] = true := rfl

/-- The written byte reads back. -/
@[simp] theorem Memory.read_write_same (m : Memory) (i : Nat) (b : Byte) : (m.write i b).read i = some b := by
  induction m with
  | nil => simp [Memory.write, Memory.read]
  | cons e rest ih =>
    obtain ⟨k, v⟩ := e
    unfold Memory.write
    split
    · simp [Memory.read]
    · split
      · simp [Memory.read]
      · rename_i _ hne
        simp [Memory.read, Ne.symm hne, ih]

/-- Every other byte reads as before. -/
theorem Memory.read_write_other (m : Memory) (i j : Nat) (b : Byte) (h : j ≠ i) :
    (m.write i b).read j = m.read j := by
  induction m with
  | nil => simp [Memory.write, Memory.read, Ne.symm h]
  | cons e rest ih =>
    obtain ⟨k, v⟩ := e
    unfold Memory.write
    split
    · simp [Memory.read, Ne.symm h]
    · split
      · rename_i _ hk
        subst hk
        simp [Memory.read, Ne.symm h]
      · simp [Memory.read, ih]

/-- Read after write, in one equation. -/
theorem Memory.read_write (m : Memory) (i j : Nat) (b : Byte) :
    (m.write i b).read j = if j = i then some b else m.read j := by
  split
  · subst_vars
    simp
  · exact Memory.read_write_other m i j b ‹_›

/-- The first index of a buffer after a write is the written one or the first one before. -/
theorem Memory.write_head (m : Memory) (i : Nat) (b : Byte) :
    ∃ e rest, m.write i b = e :: rest ∧ (e.1 = i ∨ ∃ e' rest', m = e' :: rest' ∧ e.1 = e'.1) := by
  cases m with
  | nil => exact ⟨(i, b), [], rfl, .inl rfl⟩
  | cons e rest =>
    obtain ⟨k, v⟩ := e
    unfold Memory.write
    split
    · exact ⟨_, _, rfl, .inl rfl⟩
    · split
      · exact ⟨_, _, rfl, .inl rfl⟩
      · exact ⟨_, _, rfl, .inr ⟨_, _, rfl, rfl⟩⟩

/-- A write keeps the canonical form. -/
theorem Memory.write_wf (m : Memory) (i : Nat) (b : Byte) (h : m.wf = true) : (m.write i b).wf = true := by
  induction m with
  | nil => rfl
  | cons e rest ih =>
    obtain ⟨k, v⟩ := e
    unfold Memory.write
    split
    · rename_i hlt
      simp [Memory.wf, hlt, h]
    · split
      · rename_i _ hk
        subst hk
        cases rest with
        | nil => rfl
        | cons f rest' => simpa [Memory.wf] using h
      · rename_i hlt hne
        have hrest : Memory.wf rest = true := by
          cases rest with
          | nil => rfl
          | cons f rest' =>
            simp only [Memory.wf, Bool.and_eq_true] at h
            exact h.2
        obtain ⟨f, tail, hw, hf⟩ := Memory.write_head rest i b
        have hwf := ih hrest
        rw [hw] at hwf ⊢
        simp only [Memory.wf, Bool.and_eq_true, decide_eq_true_eq]
        refine ⟨?_, hwf⟩
        rcases hf with hf | ⟨f', rest', hm, hf⟩
        · omega
        · subst hm
          simp only [Memory.wf, Bool.and_eq_true, decide_eq_true_eq] at h
          omega

/-- The buffers of the reset state are canonical. -/
theorem reset_buffers_wf : State.reset.rx.buf.wf = true ∧ State.reset.tx.buf.wf = true := ⟨rfl, rfl⟩

end Sys2Proof.Machine
end

