-- ==== Sys2Proof/Laws/Buffer.lean ====
section
/-! SUPPORT. The exclusive-or of a list (30_encoding.md R87), the bytes a buffer holds, and the running checksum. -/

namespace Sys2Proof.Machine

/-- The checksum of a concatenation. -/
theorem xorBytes_append (p q : List Byte) : xorBytes (p ++ q) = xorBytes p ^^^ xorBytes q := by
  induction p with
  | nil => simp [xorBytes]
  | cons a p ih => simp [xorBytes, ih, BitVec.xor_assoc]

/-- Flipping bits of one byte flips the same bits of the checksum (41_encoder.md R142). -/
theorem xorBytes_modify (l : List Byte) (j : Nat) (m : Byte) (h : j < l.length) :
    xorBytes (l.modify j (fun b => b ^^^ m)) = xorBytes l ^^^ m := by
  induction l generalizing j with
  | nil => simp at h
  | cons a l ih =>
    cases j with
    | zero => simp [xorBytes]; rw [BitVec.xor_assoc, BitVec.xor_comm m, BitVec.xor_assoc]
    | succ j => simp at h; simp [xorBytes, ih j h, BitVec.xor_assoc]

theorem Memory.holds_nil (m : Memory) : m.holds [] := fun i h => absurd h (by simp)

/-- Writing the next byte extends what the buffer holds. -/
theorem Memory.holds_write {m : Memory} {p : List Byte} {b : Byte} (h : m.holds p) :
    (m.write p.length b).holds (p ++ [b]) := by
  intro i hi
  rw [Memory.read_write]
  simp at hi
  split
  · subst_vars
    simp
  · have : i < p.length := by omega
    rw [h i this, List.getElem_append_left this]

/-- Where the next byte is there already, the buffer holds it too. -/
theorem Memory.holds_snoc {m : Memory} {p : List Byte} {b : Byte} (h : m.holds p) (hb : m.read p.length = some b) :
    m.holds (p ++ [b]) := by
  intro i hi
  simp at hi
  by_cases hp : i < p.length
  · rw [h i hp, List.getElem_append_left hp]
  · have : i = p.length := by omega
    subst this
    simp [hb]

/-- The running checksum after the next payload byte (R28, R38), whatever the buffer after it, as long as it holds it. -/
theorem sumSoFar_snoc {m m' : Memory} {acc len cmd idx b : Byte} (h : sumSoFar m acc len cmd idx) (hi : idx < len)
    (hm : ∀ p : List Byte, p.length = idx.toNat → m.holds p → m'.holds (p ++ [b])) :
    sumSoFar m' (acc ^^^ b) len cmd (idx + 1) := by
  obtain ⟨p, h1, h2, h3⟩ := h
  refine ⟨p ++ [b], ?_, hm p h1 h2, ?_⟩
  · simp [h1]
    have : idx.toNat < len.toNat := hi
    have := len.isLt
    omega
  · rw [h3, ← List.cons_append, ← List.cons_append, xorBytes_append]
    simp [xorBytes]

/-- The running checksum before any payload byte. -/
theorem sumSoFar_zero (m : Memory) (len cmd : Byte) : sumSoFar m (len ^^^ cmd) len cmd 0 :=
  ⟨[], rfl, Memory.holds_nil _, by simp [xorBytes]⟩

/-- A write within the capacity keeps a buffer canonical and within the capacity. -/
theorem bufferOk_write {cfg : Config.Params} {m : Memory} {b : Byte} {i : Nat} (h : bufferOk cfg m)
    (hi : i < cfg.maxPayload.toNat) : bufferOk cfg (m.write i b) := by
  refine ⟨Memory.write_wf _ _ _ h.1, fun j hj => ?_⟩
  rw [Memory.read_write] at hj
  split at hj
  · omega
  · exact h.2 j hj

end Sys2Proof.Machine
end

