-- ==== Sys2Proof/Laws/HostWord.lean ====
section
/-! SUPPORT. The fields of a host transaction word (30_encoding.md R88, R89). -/

namespace Sys2Proof

@[simp] theorem wordWrite_hostWord (wr : Bool) (a : HostAddr) (d : Byte) : wordWrite (hostWord wr a d) = wr := by
  simp only [wordWrite, hostWord, BitVec.getLsbD_append]
  simp

@[simp] theorem wordAddr_hostWord (wr : Bool) (a : HostAddr) (d : Byte) : wordAddr (hostWord wr a d) = a := by
  apply BitVec.eq_of_getLsbD_eq
  intro i hi
  simp only [wordAddr, hostWord, BitVec.getLsbD_extractLsb', BitVec.getLsbD_append]
  simp [hi]

@[simp] theorem wordData_hostWord (wr : Bool) (a : HostAddr) (d : Byte) : wordData (hostWord wr a d) = d := by
  apply BitVec.eq_of_getLsbD_eq
  intro i hi
  simp only [wordData, hostWord, BitVec.getLsbD_extractLsb', BitVec.getLsbD_append]
  simp [hi]

/-- A word is the word of its fields. -/
@[simp] theorem hostWord_fields (w : HostWord) : hostWord (wordWrite w) (wordAddr w) (wordData w) = w := by
  apply BitVec.eq_of_getLsbD_eq
  intro i hi
  simp only [hostWord, wordWrite, wordAddr, wordData, BitVec.getLsbD_append, BitVec.getLsbD_extractLsb']
  by_cases h8 : i < 8
  · simp [h8]
  · by_cases h18 : i - 8 < 10
    · simp [h8, h18, Nat.add_sub_cancel' (Nat.le_of_not_lt h8)]
    · have h : i = 18 := by omega
      subst h
      simp

/-- The bits of a host word under the mask 0x7FF00 are its fields W and A. -/
theorem hostWord_mask_addr (wr : Bool) (a : HostAddr) (d : Byte) :
    hostWord wr a d &&& 0x7FF00#19 = hostWord wr a 0 := by
  apply BitVec.eq_of_getLsbD_eq
  intro i hi
  have hm : (0x7FF00#19).getLsbD i = decide (8 ≤ i) := by
    revert i
    decide
  simp only [BitVec.getLsbD_and, hm, hostWord, BitVec.getLsbD_append]
  by_cases h8 : i < 8
  · simp [h8]
  · simp [h8, Nat.le_of_not_lt h8]

/-- The bits of a host word under the mask 0x70000 are W and the region. -/
theorem hostWord_mask_region (wr : Bool) (a : HostAddr) (d : Byte) :
    hostWord wr a d &&& 0x70000#19 = hostWord wr (addrRegion a ++ 0#8) 0 := by
  apply BitVec.eq_of_getLsbD_eq
  intro i hi
  have hm : (0x70000#19).getLsbD i = decide (16 ≤ i) := by
    revert i
    decide
  simp only [BitVec.getLsbD_and, hm, hostWord, BitVec.getLsbD_append, addrRegion, BitVec.getLsbD_extractLsb']
  by_cases h8 : i < 8
  · have : ¬ 16 ≤ i := by omega
    simp [h8, this]
  · by_cases h18 : i - 8 < 10
    · by_cases h16 : i - 8 < 8
      · have : ¬ 16 ≤ i := by omega
        simp [h8, h18, h16, this]
      · have h3 : 16 ≤ i := by omega
        have h4 : i - 8 - 8 < 2 := by omega
        have h5 : 8 + (i - 8 - 8) = i - 8 := by omega
        simp [h8, h18, h16, h3, h4, h5]
    · have h3 : 16 ≤ i := by omega
      simp [h8, h18, h3]

@[simp] theorem addrRegion_append (g : BitVec 2) (i : Byte) : addrRegion (g ++ i) = g := by
  apply BitVec.eq_of_getLsbD_eq
  intro k hk
  simp only [addrRegion, BitVec.getLsbD_extractLsb', BitVec.getLsbD_append]
  simp [hk]

@[simp] theorem addrIndex_append (g : BitVec 2) (i : Byte) : addrIndex (g ++ i) = i := by
  apply BitVec.eq_of_getLsbD_eq
  intro k hk
  simp only [addrIndex, BitVec.getLsbD_extractLsb', BitVec.getLsbD_append]
  simp [hk]

/-- An address is its region and its index. -/
theorem addr_toNat (a : HostAddr) : a.toNat = 256 * (addrRegion a).toNat + (addrIndex a).toNat := by
  simp only [addrRegion, addrIndex, BitVec.extractLsb'_toNat, Nat.shiftRight_eq_div_pow, Nat.pow_zero, Nat.div_one]
  have := a.isLt
  omega

end Sys2Proof
end

