-- ==== Sys2Proof/Laws/State.lean ====
section
/-! SUPPORT. One lemma per field per named update of the state, true by `rfl`, so that no later proof unfolds an update. -/

namespace Sys2Proof.Machine

/-! ### `hardReset` (R291) -/

@[simp] theorem hardReset_rx (s : State) : (hardReset s).rx = .reset := rfl
@[simp] theorem hardReset_tx (s : State) : (hardReset s).tx = .reset := rfl
@[simp] theorem hardReset_err (s : State) : (hardReset s).err = 0 := rfl
@[simp] theorem hardReset_cfg (s : State) : (hardReset s).cfg = s.cfg := rfl
@[simp] theorem hardReset_out (s : State) : (hardReset s).out = s.out := rfl
@[simp] theorem hardReset_inputs (s : State) : (hardReset s).inputs = s.inputs := rfl
@[simp] theorem hardReset_wire (s : State) : (hardReset s).wire = s.wire := rfl
@[simp] theorem hardReset_resets (s : State) : (hardReset s).resets = s.resets + 1 := rfl
@[simp] theorem hardReset_writes (s : State) : (hardReset s).writes = s.writes := rfl

/-! ### `softReset` (R293) -/

@[simp] theorem softReset_rx (s : State) : (softReset s).rx = { Parser.reset with buf := s.rx.buf } := rfl
@[simp] theorem softReset_tx (s : State) : (softReset s).tx = { Encoder.reset with buf := s.tx.buf } := rfl
@[simp] theorem softReset_err (s : State) : (softReset s).err = 0 := rfl
@[simp] theorem softReset_cfg (s : State) : (softReset s).cfg = s.cfg := rfl
@[simp] theorem softReset_out (s : State) : (softReset s).out = s.out := rfl
@[simp] theorem softReset_inputs (s : State) : (softReset s).inputs = s.inputs := rfl
@[simp] theorem softReset_wire (s : State) : (softReset s).wire = s.wire := rfl
@[simp] theorem softReset_resets (s : State) : (softReset s).resets = s.resets := rfl
@[simp] theorem softReset_writes (s : State) : (softReset s).writes = s.writes := rfl

/-! ### The registers after reset (R291) -/

@[simp] theorem Parser.reset_state : Parser.reset.state = .hunt := rfl
@[simp] theorem Parser.reset_dir : Parser.reset.dir = 0 := rfl
@[simp] theorem Parser.reset_len : Parser.reset.len = 0 := rfl
@[simp] theorem Parser.reset_cmd : Parser.reset.cmd = 0 := rfl
@[simp] theorem Parser.reset_csum : Parser.reset.csum = 0 := rfl
@[simp] theorem Parser.reset_acc : Parser.reset.acc = 0 := rfl
@[simp] theorem Parser.reset_idx : Parser.reset.idx = 0 := rfl
@[simp] theorem Parser.reset_result : Parser.reset.result = .none := rfl
@[simp] theorem Parser.reset_sofQ : Parser.reset.sofQ = false := rfl
@[simp] theorem Parser.reset_eofQ : Parser.reset.eofQ = false := rfl
@[simp] theorem Parser.reset_buf : Parser.reset.buf = [] := rfl
@[simp] theorem Encoder.reset_state : Encoder.reset.state = .idle := rfl
@[simp] theorem Encoder.reset_len : Encoder.reset.len = 0 := rfl
@[simp] theorem Encoder.reset_cmd : Encoder.reset.cmd = 0 := rfl
@[simp] theorem Encoder.reset_acc : Encoder.reset.acc = 0 := rfl
@[simp] theorem Encoder.reset_idx : Encoder.reset.idx = 0 := rfl
@[simp] theorem Encoder.reset_csum : Encoder.reset.csum = 0 := rfl
@[simp] theorem Encoder.reset_buf : Encoder.reset.buf = [] := rfl

/-! ### `clearPulses` (R151) -/

@[simp] theorem clearPulses_state (r : Parser) : (clearPulses r).state = r.state := rfl
@[simp] theorem clearPulses_dir (r : Parser) : (clearPulses r).dir = r.dir := rfl
@[simp] theorem clearPulses_len (r : Parser) : (clearPulses r).len = r.len := rfl
@[simp] theorem clearPulses_cmd (r : Parser) : (clearPulses r).cmd = r.cmd := rfl
@[simp] theorem clearPulses_csum (r : Parser) : (clearPulses r).csum = r.csum := rfl
@[simp] theorem clearPulses_acc (r : Parser) : (clearPulses r).acc = r.acc := rfl
@[simp] theorem clearPulses_idx (r : Parser) : (clearPulses r).idx = r.idx := rfl
@[simp] theorem clearPulses_result (r : Parser) : (clearPulses r).result = r.result := rfl
@[simp] theorem clearPulses_sofQ (r : Parser) : (clearPulses r).sofQ = false := rfl
@[simp] theorem clearPulses_eofQ (r : Parser) : (clearPulses r).eofQ = false := rfl
@[simp] theorem clearPulses_buf (r : Parser) : (clearPulses r).buf = r.buf := rfl

/-! ### `classified` (log 11) -/

@[simp] theorem classified_rx (c : Byte) (p : Option Response) (s : State) : (classified c p s).rx = s.rx := rfl
@[simp] theorem classified_tx (c : Byte) (p : Option Response) (s : State) : (classified c p s).tx = s.tx := rfl
@[simp] theorem classified_err (c : Byte) (p : Option Response) (s : State) : (classified c p s).err = s.err := rfl
@[simp] theorem classified_cfg (c : Byte) (p : Option Response) (s : State) : (classified c p s).cfg = s.cfg := rfl
@[simp] theorem classified_out (c : Byte) (p : Option Response) (s : State) : (classified c p s).out = s.out := rfl
@[simp] theorem classified_inputs (c : Byte) (p : Option Response) (s : State) :
    (classified c p s).inputs = s.inputs := rfl
@[simp] theorem classified_wire (c : Byte) (p : Option Response) (s : State) :
    (classified c p s).wire = some (wireReport c p s) := rfl
@[simp] theorem classified_resets (c : Byte) (p : Option Response) (s : State) :
    (classified c p s).resets = s.resets := rfl
@[simp] theorem classified_writes (c : Byte) (p : Option Response) (s : State) :
    (classified c p s).writes = s.writes := rfl

/-! ### `raiseRx`, `raiseTx` (R262) -/

@[simp] theorem raiseRx_desync (x : RxStep) : raiseRx .desync x = { x with ev := x.ev ||| 1#5 } := rfl
@[simp] theorem raiseRx_csumMismatch (x : RxStep) :
    raiseRx .csumMismatch x = { rx := { x.rx with result := .csumMismatch, eofQ := true }, ev := x.ev ||| 2#5 } := rfl
@[simp] theorem raiseRx_lenOverflow (x : RxStep) :
    raiseRx .lenOverflow x = { rx := { x.rx with result := .lenOverflow, eofQ := true }, ev := x.ev ||| 4#5 } := rfl
@[simp] theorem raiseRx_aborted (x : RxStep) :
    raiseRx .aborted x = { rx := { x.rx with result := .aborted, eofQ := true }, ev := x.ev ||| 8#5 } := rfl
@[simp] theorem raiseTx_tx (x : TxStep) : (raiseTx x).tx = x.tx := rfl
@[simp] theorem raiseTx_ev (x : TxStep) : (raiseTx x).ev = x.ev ||| 16#5 := rfl

/-! ### `advance`: the fields the cycle does not compute -/

@[simp] theorem advance_cfg (h : HostOp) (o : Option Byte) (r : Bool) (p : Outputs) (s : State) :
    (advance h o r p s).cfg = s.cfg := rfl
@[simp] theorem advance_out (h : HostOp) (o : Option Byte) (r : Bool) (p : Outputs) (s : State) :
    (advance h o r p s).out = p := rfl
@[simp] theorem advance_inputs (h : HostOp) (o : Option Byte) (r : Bool) (p : Outputs) (s : State) :
    (advance h o r p s).inputs = s.inputs := rfl
@[simp] theorem advance_wire (h : HostOp) (o : Option Byte) (r : Bool) (p : Outputs) (s : State) :
    (advance h o r p s).wire = s.wire := rfl
@[simp] theorem advance_resets (h : HostOp) (o : Option Byte) (r : Bool) (p : Outputs) (s : State) :
    (advance h o r p s).resets = s.resets := rfl
@[simp] theorem advance_writes (h : HostOp) (o : Option Byte) (r : Bool) (p : Outputs) (s : State) :
    (advance h o r p s).writes = countWrites h s := rfl

end Sys2Proof.Machine
end

