-- ==== Sys2Proof/Laws/Ops.lean ====
section
/-! SUPPORT. One lemma per shared operation, which says once everything the operation can do. -/

namespace Sys2Proof.Machine

/-! ## The cycle -/

/-- Everything a cycle that answers a next state can do (R117, R118). -/
theorem runCycle_next {h : HostOp} {o : Option Byte} {r : Bool} {s t : State} (ht : runCycle h o r s = .next t) :
    ∃ rd, h.rdata = .ok rd ∧ ¬ (r = true ∧ sendsUnwritten s = true) ∧
      ((h.ctrl.getLsbD 7 = true ∧ t = { softReset s with out := ports (driven h rd s) s, writes := countWrites h s }) ∨
        (h.ctrl.getLsbD 7 = false ∧ t = advance h o r (ports (driven h rd s) s) s)) := by
  unfold runCycle at ht
  split at ht
  · cases ht
  · rename_i rd hrd
    refine ⟨rd, hrd, ?_⟩
    split at ht
    · cases ht
    · rename_i hsend
      refine ⟨hsend, ?_⟩
      split at ht
      · exact .inl ⟨‹_›, (Host.Outcome.next.inj ht).symm⟩
      · exact .inr ⟨by simpa using ‹¬ h.ctrl.getLsbD 7 = true›, (Host.Outcome.next.inj ht).symm⟩

/-- A cycle without SOFT_RESET whose read data and transfer are written goes on by `advance`. -/
theorem runCycle_advance {h : HostOp} {o : Option Byte} {r : Bool} {s : State} {rd : Byte} (hrd : h.rdata = .ok rd)
    (hsend : ¬ (r = true ∧ sendsUnwritten s = true)) (h7 : h.ctrl.getLsbD 7 = false) :
    runCycle h o r s = .next (advance h o r (ports (driven h rd s) s) s) := by
  unfold runCycle
  rw [hrd]
  simp only [hsend, h7, if_false]
  rfl

/-- A cycle with SOFT_RESET, whatever else is in it (R118). -/
theorem runCycle_softReset {h : HostOp} {o : Option Byte} {r : Bool} {s : State} {rd : Byte} (hrd : h.rdata = .ok rd)
    (hsend : ¬ (r = true ∧ sendsUnwritten s = true)) (h7 : h.ctrl.getLsbD 7 = true) :
    runCycle h o r s = .next { softReset s with out := ports (driven h rd s) s, writes := countWrites h s } := by
  unfold runCycle
  rw [hrd]
  simp only [hsend, h7, if_false, if_true]

/-- A cycle never answers a refusal. -/
theorem runCycle_not_refused (h : HostOp) (o : Option Byte) (r : Bool) (s : State) (e : Refusal) :
    runCycle h o r s ≠ .refused e := by
  unfold runCycle
  split
  · simp
  · split
    · simp
    · split <;> simp

/-- The faults of a cycle: the read's, or the transfer of an unwritten byte (U3). -/
theorem runCycle_fault {h : HostOp} {o : Option Byte} {r : Bool} {s : State} {f : Fault} (hf : runCycle h o r s = .fault f) :
    h.rdata = .error f ∨ (r = true ∧ sendsUnwritten s = true ∧ f = .sendUnwritten s.tx.idx.toNat) := by
  unfold runCycle at hf
  split at hf
  · rename_i g hg
    cases hf
    exact .inl hg
  · split at hf
    · rename_i hsend
      cases hf
      exact .inr ⟨hsend.1, hsend.2, rfl⟩
    · split at hf <;> cases hf

/-! ## The parser part -/

/-- Everything the receive part of a cycle does: RX_FLUSH, else RX_ACK of a held frame, else the arm of an accepted byte,
else nothing but the pulses (R151, R162). -/
theorem rxNext_cases (cfg : Config.Params) (r : Parser) (rxIn : Option Byte) (ack flush : Bool) :
    (flush = true ∧ rxNext cfg r rxIn ack flush = rxFlush r { rx := clearPulses r }) ∨
    (flush = false ∧ ack = true ∧ r.state = .hold ∧
      rxNext cfg r rxIn ack flush = { rx := { clearPulses r with state := .hunt } }) ∨
    (flush = false ∧ ¬ (ack = true ∧ r.state = .hold) ∧ ∃ b, rxIn = some b ∧
      rxNext cfg r rxIn ack flush = rxArm cfg b r { rx := clearPulses r }) ∨
    (flush = false ∧ ¬ (ack = true ∧ r.state = .hold) ∧ rxIn = none ∧
      rxNext cfg r rxIn ack flush = { rx := clearPulses r }) := by
  unfold rxNext
  cases flush with
  | true => exact .inl ⟨rfl, rfl⟩
  | false =>
    right
    by_cases ha : ack = true ∧ r.state = .hold
    · left
      exact ⟨rfl, ha.1, ha.2, by simp [ha, rxAck]⟩
    · right
      cases rxIn with
      | some b => exact .inl ⟨rfl, ha, b, rfl, by simp [ha]⟩
      | none => exact .inr ⟨rfl, ha, rfl, by simp [ha]⟩

/-- RX_FLUSH in a frame ends it; elsewhere it only returns the parser to HUNT (R161). -/
theorem rxFlush_eq (r : Parser) (x : RxStep) (hx : x.rx.state = r.state) :
    rxFlush r x =
      if inFrame r then { rx := { x.rx with state := .hunt, result := .aborted, eofQ := true }, ev := x.ev ||| 8#5 }
      else { x with rx := { x.rx with state := .hunt } } := by
  unfold rxFlush inFrame
  cases h : r.state <;> simp [h] at hx ⊢
  obtain ⟨⟨_, _, _, _, _, _, _, _, _, _, _⟩, _⟩ := x
  simp_all

/-! ## The encoder part -/

/-- Everything the transmit part of a cycle does in IDLE, where nothing is sent: TX_START, then a register write (R130). -/
theorem txNext_idle (cfg : Config.Params) (t : Encoder) (start : Bool) (wr : Option TxWrite) :
    txNext cfg t none start wr =
      (let x := if start then txStart cfg t { tx := t } else { tx := t }
       match wr with
       | some w => txWrite cfg w t x
       | none => x) := rfl

/-- While the encoder is busy the host changes nothing of it: only the arm of a transferred byte does (R119, R143). -/
theorem txNext_busy (cfg : Config.Params) (t : Encoder) (sent : Option Byte) (start : Bool) (wr : Option TxWrite)
    (hb : t.state ≠ .idle) :
    (txNext cfg t sent start wr).tx = (match sent with | some b => (txArm b t { tx := t }).tx | none => t) := by
  unfold txNext txStart txWrite
  simp only [hb, ne_eq, not_false_eq_true, if_true, if_false]
  cases wr with
  | none => cases sent <;> cases start <;> simp
  | some w => cases w <;> cases sent <;> cases start <;> simp <;> split <;> simp

/-- No arm raises an event (R133 to R139). -/
theorem txArm_ev (b : Byte) (t : Encoder) (x : TxStep) : (txArm b t x).ev = x.ev := by
  unfold txArm
  cases t.state <;> rfl

/-! ## The host part -/

/-- A host read sends nothing to the engines and drives `MemRead` (R190). -/
theorem hostTransaction_read (a : HostAddr) (d : Byte) (s : State) :
    hostTransaction (some (hostWord false a d)) s = { rdata := memRead a s } := by
  have ha := addr_toNat a
  have hi := (addrIndex a).isLt
  unfold hostTransaction decodeHost
  simp only [wordWrite_hostWord, wordAddr_hostWord, wordData_hostWord, Bool.false_eq_true, if_false]
  have h10 : (a < (0x010 : HostAddr)) = (a.toNat < 16) := rfl
  have h200 : (a < (0x200 : HostAddr)) = (a.toNat < 512) := rfl
  have h300 : (a < (0x300 : HostAddr)) = (a.toNat < 768) := rfl
  unfold memRead
  simp only [h10, h200, h300]
  generalize addrIndex a = n at *
  match hg : (addrRegion a).toNat with
  | 0 =>
    rw [hg] at ha
    have hn : n.toNat = a.toNat := by omega
    unfold decodeRegRead
    rw [hn]
    by_cases h16 : a.toNat < 16
    · simp only [h16, if_true]
      clear ha hn
      generalize a.toNat = k at *
      interval_cases k <;> rfl
    · have h512 : a.toNat < 512 := by omega
      simp only [h16, h512, if_true, if_false]
      obtain ⟨k, hk⟩ : ∃ k, a.toNat = k + 16 := ⟨a.toNat - 16, by omega⟩
      rw [hk]
      rfl
  | 1 =>
    rw [hg] at ha
    have h16 : ¬ a.toNat < 16 := by omega
    have h512 : a.toNat < 512 := by omega
    simp only [h16, h512, if_true, if_false]
    rfl
  | 2 =>
    rw [hg] at ha
    have h16 : ¬ a.toNat < 16 := by omega
    have h512 : ¬ a.toNat < 512 := by omega
    have h768 : a.toNat < 768 := by omega
    simp only [h16, h512, h768, if_true, if_false]
    rfl
  | k + 3 =>
    rw [hg] at ha
    have h16 : ¬ a.toNat < 16 := by omega
    have h512 : ¬ a.toNat < 512 := by omega
    have h768 : ¬ a.toNat < 768 := by omega
    simp only [h16, h512, h768, if_false]
    rfl

/-- Each CTRL row does what its data byte says (R192). -/
theorem hostOpOf_decodeCtrl (d : Byte) (s : State) : hostOpOf (decodeCtrl d) s = opCtrl d := by
  have h7 : ∀ d : Byte, d.getLsbD 7 = true → ctrlSoftResetData (d.extractLsb' 0 7) = d := by decide
  have h1 : ∀ d : Byte, d.getLsbD 7 = false → d.getLsbD 1 = true →
      ctrlRxFlushData (d.extractLsb' 2 5) (d.extractLsb' 0 1) = d := by decide
  have h0 : ∀ d : Byte, d.getLsbD 7 = false → d.getLsbD 0 = true → ctrlRxAckData (d.extractLsb' 1 6) = d := by decide
  have h2 : ∀ d : Byte, d.getLsbD 7 = false → d.getLsbD 2 = true →
      ctrlTxStartData (d.extractLsb' 3 4) (d.extractLsb' 0 2) = d := by decide
  unfold decodeCtrl
  split
  · exact congrArg opCtrl (h7 d ‹_›)
  · have hd7 : d.getLsbD 7 = false := by simpa using ‹¬ d.getLsbD 7 = true›
    split
    · rename_i h
      simp only [Bool.and_eq_true] at h
      exact congrArg opCtrl (h1 d hd7 h.1)
    · split
      · rename_i h
        simp only [Bool.and_eq_true] at h
        exact congrArg opCtrl (h0 d hd7 h.1.1)
      · split
        · rename_i h
          simp only [Bool.and_eq_true] at h
          exact congrArg opCtrl (h2 d hd7 h.1.1)
        · rfl

/-- A host write does `MemWrite` (R191). -/
theorem hostTransaction_write (a : HostAddr) (d : Byte) (s : State) :
    hostTransaction (some (hostWord true a d)) s = memWrite a d := by
  have ha := addr_toNat a
  have hi := (addrIndex a).isLt
  unfold hostTransaction decodeHost
  simp only [wordWrite_hostWord, wordAddr_hostWord, wordData_hostWord, if_true]
  have heq : ∀ b : HostAddr, (a = b) = (a.toNat = b.toNat) := fun b => propext BitVec.toNat_inj.symm
  have h300 : ((0x300 : HostAddr) ≤ a) = (768 ≤ a.toNat) := rfl
  unfold memWrite
  simp only [heq, h300]
  generalize addrIndex a = n at *
  match hg : (addrRegion a).toNat with
  | 0 =>
    rw [hg] at ha
    have hn : n.toNat = a.toNat := by omega
    unfold decodeRegWrite
    rw [hn]
    by_cases h16 : a.toNat < 16
    · clear ha hn heq h300
      generalize a.toNat = k at *
      interval_cases k <;> first | exact hostOpOf_decodeCtrl d s | rfl
    · have h768 : ¬ 768 ≤ a.toNat := by omega
      obtain ⟨k, hk⟩ : ∃ k, a.toNat = k + 16 := ⟨a.toNat - 16, by omega⟩
      rw [hk] at h768 ⊢
      simp only [h768, if_false]
      rfl
  | 1 =>
    rw [hg] at ha
    obtain ⟨k, hk⟩ : ∃ k, a.toNat = k + 16 := ⟨a.toNat - 16, by omega⟩
    have h768 : ¬ 768 ≤ k + 16 := by omega
    rw [hk]
    simp only [h768, if_false]
    rfl
  | 2 =>
    rw [hg] at ha
    obtain ⟨k, hk⟩ : ∃ k, a.toNat = k + 16 := ⟨a.toNat - 16, by omega⟩
    have h768 : ¬ 768 ≤ k + 16 := by omega
    rw [hk]
    simp only [h768, if_false]
    rfl
  | k + 3 =>
    rw [hg] at ha
    obtain ⟨j, hj⟩ : ∃ j, a.toNat = j + 16 := ⟨a.toNat - 16, by omega⟩
    have h768 : 768 ≤ j + 16 := by omega
    rw [hj]
    simp only [h768, if_true]
    rfl

/-- What any host word does: `MemWrite` or `MemRead` of its fields. -/
theorem hostTransaction_word (w : HostWord) (s : State) :
    hostTransaction (some w) s =
      if wordWrite w then memWrite (wordAddr w) (wordData w) else { rdata := memRead (wordAddr w) s } := by
  rw [← hostWord_fields w]
  cases h : wordWrite w
  · simp [hostTransaction_read]
  · simp [hostTransaction_write]

/-- A memory write sends CTRL data only at address 0x000. -/
theorem memWrite_ctrl (a : HostAddr) (d : Byte) : (memWrite a d).ctrl = if a = 0x000 then d else 0 := by
  unfold memWrite
  repeat' split
  all_goals rfl

/-- The CTRL data a cycle sends to the engines (R117). -/
theorem hostTransaction_ctrl (c : CycleIn) (s : State) : (hostTransaction c.host s).ctrl = ctrlData c := by
  unfold ctrlData
  cases hc : c.host with
  | none => rfl
  | some w =>
    rw [hostTransaction_word]
    cases hw : wordWrite w with
    | false => simp [hw]
    | true => simp [hw, memWrite_ctrl]

/-- A memory write never faults. -/
theorem memWrite_rdata (a : HostAddr) (d : Byte) : (memWrite a d).rdata = .ok 0 := by
  unfold memWrite
  repeat' split
  all_goals rfl

/-- A memory write is a write. -/
theorem memWrite_write (a : HostAddr) (d : Byte) : (memWrite a d).write = true := by
  unfold memWrite
  repeat' split
  all_goals rfl

/-! ## The requests -/

/-- The payload lengths of the requests: 0, 1, 0 and 33 (44_wire_commands.md R240). -/
theorem requestPayload_length (r : Request) : (requestPayload r).length =
    (match r with
     | .getConfig => 0
     | .setConfig _ => 1
     | .getFix => 0
     | .echoTest _ _ => 33) := by
  cases r <;> simp [requestPayload, requestGetConfig, requestSetConfig, requestGetFix, requestEchoTest]

end Sys2Proof.Machine
end

