-- ==== Sys2Proof/Laws/Cycle.lean ====
section
/-! SUPPORT. What a cycle, a host cycle and one arm can do, said once. -/

namespace Sys2Proof.Machine

/-! ## The error flags -/

/-- With nothing to clear and no event the flags stay. -/
@[simp] theorem nextErr_quiet (e : BitVec 5) : nextErr e 0#5 0#5 0#5 = e := by revert e; decide

/-- With nothing to clear the events are added (R120). -/
theorem nextErr_set (e x y : BitVec 5) : nextErr e 0#5 x y = (e ||| x) ||| y := by
  have h : e &&& ~~~(0#5) = e := by revert e; decide
  unfold nextErr
  exact congrArg (fun z => (z ||| x) ||| y) h

/-- With no event the cleared flags go (R196). -/
theorem nextErr_clear (e c : BitVec 5) : nextErr e c 0#5 0#5 = e &&& ~~~c := by simp [nextErr]

/-! ## Host cycles -/

/-- A host access that only drives read data changes only the pulses (R190, R216). -/
theorem hostCycle_read (rd : Byte) (s : State) : hostCycle { rdata := .ok rd } s = .next (quietNext rd s) := by
  rw [hostCycle, runCycle_advance (h := { rdata := .ok rd }) (rd := rd) rfl (by simp) (by simp)]
  simp [advance, rxNext, txNext, clearPulses, quietNext, driven, countWrites]

/-- A host write that sends nothing to the engines changes only the pulses and the count of writes (R215). -/
theorem hostCycle_ignored (s : State) : hostCycle { write := true } s = .next (writeNext s) := by
  rw [hostCycle, runCycle_advance (h := { write := true }) (rd := 0) rfl (by simp) (by simp)]
  simp [advance, rxNext, txNext, clearPulses, quietNext, writeNext, driven, countWrites]

/-- A cycle whose only operation is a host word is that operation's cycle. -/
theorem step_host {s : State} {rest : List Input} {w : HostWord} (h : s.inputs = .cycle { host := some w } :: rest) :
    step s = hostCycle (hostTransaction (some w) { s with inputs := rest }) { s with inputs := rest } := by
  simp only [step, h]
  rfl

/-- A host row's meaning is the host cycle of its operation. -/
theorem exec_of_decodeHost {i : Instr} {w : HostWord} (s : State) (h : decodeHost w = .ok i) :
    exec i s = hostCycle (hostOpOf i s) s := by
  unfold decodeHost at h
  simp only at h
  split at h
  · split at h
    · unfold decodeRegWrite at h
      split at h
      · unfold decodeCtrl at h
        split_ifs at h <;> cases h <;> rfl
      all_goals cases h
      all_goals rfl
    · unfold decodeRegRead at h
      split at h <;> cases h <;> rfl
  · cases h
  · split at h <;> cases h <;> rfl
  · split at h <;> cases h <;> rfl

/-! ## The cycle -/

/-- Everything a cycle that answers a next state can do, engine by engine (R117, R118, R290, R293). -/
theorem cycle_next {c : CycleIn} {s t : State} (h : cycle c s = .next t) :
    (c.rst = true ∧ t = { hardReset s with out := resetPorts s }) ∨
    (c.rst = false ∧ (ctrlData c).getLsbD 7 = true ∧
      ∃ rd, (hostTransaction c.host s).rdata = .ok rd ∧ 
        t = { softReset s with
          out := ports (driven (hostTransaction c.host s) rd s) s, writes := countWrites (hostTransaction c.host s) s }) ∨
    (noReset c ∧ ¬ (c.txReady = true ∧ sendsUnwritten s = true) ∧
      ∃ rd, (hostTransaction c.host s).rdata = .ok rd ∧
        t = advance (hostTransaction c.host s) (rxOffer c) c.txReady
          (ports (driven (hostTransaction c.host s) rd s) s) s) := by
  unfold cycle at h
  split at h
  · next hr =>
    cases h
    exact .inl ⟨hr, rfl⟩
  · next hr =>
    have hr : c.rst = false := by simpa using hr
    obtain ⟨rd, hrd, hs, h | h⟩ := runCycle_next h <;> rw [hostTransaction_ctrl] at h
    · exact .inr (.inl ⟨hr, h.1, rd, hrd, h.2⟩)
    · exact .inr (.inr ⟨⟨hr, h.1⟩, hs, rd, hrd, h.2⟩)

/-- The parser after a cycle without a reset. -/
theorem advance_rx (c : CycleIn) (s : State) (out : Outputs) :
    (advance (hostTransaction c.host s) (rxOffer c) c.txReady out s).rx =
      (rxNext s.cfg s.rx (if s.rx.state = .hold then none else rxOffer c) ((ctrlData c).getLsbD 0)
        ((ctrlData c).getLsbD 1)).rx := by
  simp only [advance, hostTransaction_ctrl]

/-- The encoder after a cycle without a reset. -/
theorem advance_tx (c : CycleIn) (s : State) (out : Outputs) :
    (advance (hostTransaction c.host s) (rxOffer c) c.txReady out s).tx =
      (txNext s.cfg s.tx (if s.tx.state ≠ .idle ∧ c.txReady = true then some (txByte s) else none)
        ((ctrlData c).getLsbD 2) (hostTransaction c.host s).wr).tx := by
  simp only [advance, hostTransaction_ctrl]

/-- The flags after a cycle without a reset. -/
theorem advance_err (c : CycleIn) (s : State) (out : Outputs) :
    (advance (hostTransaction c.host s) (rxOffer c) c.txReady out s).err =
      nextErr s.err (hostTransaction c.host s).clr
        (rxNext s.cfg s.rx (if s.rx.state = .hold then none else rxOffer c) ((ctrlData c).getLsbD 0)
          ((ctrlData c).getLsbD 1)).ev
        (txNext s.cfg s.tx (if s.tx.state ≠ .idle ∧ c.txReady = true then some (txByte s) else none)
          ((ctrlData c).getLsbD 2) (hostTransaction c.host s).wr).ev := by
  simp only [advance, hostTransaction_ctrl]

end Sys2Proof.Machine
end

