-- ==== Sys2Proof/Laws/PerInstr.lean ====
section
/-! SUPPORT. Per instruction: the word `encode` writes, from the address map of 30_encoding.md R90, fits the instruction's
row of opcode_table.json. -/

namespace Sys2Proof.Laws.EncodeFitsRow

/-- The encoded word has the row's format, and its bits under the row's mask are the row's pattern (R99). -/
def Statement (i : Instr) : Prop := (tableRow i).fits (encode i) = true

/-- A host row whose mask covers W and A. -/
theorem addr_row (wr : Bool) (a : HostAddr) (p : HostWord) (h : hostWord wr a 0 = p) (d : Byte) :
    TableRow.fits (.hostWord p 0x7FF00#19) (.host (hostWord wr a d)) = true := by
  show (hostWord wr a d &&& 0x7FF00#19 == p) = true
  rw [hostWord_mask_addr, h]
  exact beq_self_eq_true p

/-- A host row whose mask covers W and the region. -/
theorem region_row (wr : Bool) (g : BitVec 2) (p : HostWord) (h : hostWord wr (g ++ 0#8) 0 = p) (i d : Byte) :
    TableRow.fits (.hostWord p 0x70000#19) (.host (hostWord wr (g ++ i) d)) = true := by
  show (hostWord wr (g ++ i) d &&& 0x70000#19 == p) = true
  rw [hostWord_mask_region, addrRegion_append, h]
  exact beq_self_eq_true p

/-- A row without fixed bits. -/
theorem byte_row (b : Byte) : TableRow.fits (.rxByte 0x00 0x00) (.rx b) = true := by
  show (b &&& 0#8 == 0#8) = true
  simp

theorem rdCtrl : Statement .rdCtrl := addr_row _ _ _ (by decide) 0

theorem wrCtrl (d : Byte) : Statement (.wrCtrl d) := addr_row _ _ _ (by decide) d

theorem rdStatus : Statement .rdStatus := addr_row _ _ _ (by decide) 0

theorem wrStatusIgnored (d : Byte) : Statement (.wrStatusIgnored d) := addr_row _ _ _ (by decide) d

theorem rdErr : Statement .rdErr := addr_row _ _ _ (by decide) 0

theorem wrErr (d : Byte) : Statement (.wrErr d) := addr_row _ _ _ (by decide) d

theorem rdRxResult : Statement .rdRxResult := addr_row _ _ _ (by decide) 0

theorem wrRxResultIgnored (d : Byte) : Statement (.wrRxResultIgnored d) := addr_row _ _ _ (by decide) d

theorem rdRxDir : Statement .rdRxDir := addr_row _ _ _ (by decide) 0

theorem wrRxDirIgnored (d : Byte) : Statement (.wrRxDirIgnored d) := addr_row _ _ _ (by decide) d

theorem rdRxLen : Statement .rdRxLen := addr_row _ _ _ (by decide) 0

theorem wrRxLenIgnored (d : Byte) : Statement (.wrRxLenIgnored d) := addr_row _ _ _ (by decide) d

theorem rdRxCmd : Statement .rdRxCmd := addr_row _ _ _ (by decide) 0

theorem wrRxCmdIgnored (d : Byte) : Statement (.wrRxCmdIgnored d) := addr_row _ _ _ (by decide) d

theorem rdRxCsum : Statement .rdRxCsum := addr_row _ _ _ (by decide) 0

theorem wrRxCsumIgnored (d : Byte) : Statement (.wrRxCsumIgnored d) := addr_row _ _ _ (by decide) d

theorem rdTxLen : Statement .rdTxLen := addr_row _ _ _ (by decide) 0

theorem wrTxLen (d : Byte) : Statement (.wrTxLen d) := addr_row _ _ _ (by decide) d

theorem rdTxCmd : Statement .rdTxCmd := addr_row _ _ _ (by decide) 0

theorem wrTxCmd (d : Byte) : Statement (.wrTxCmd d) := addr_row _ _ _ (by decide) d

theorem rdTxCsum : Statement .rdTxCsum := addr_row _ _ _ (by decide) 0

theorem wrTxCsumIgnored (d : Byte) : Statement (.wrTxCsumIgnored d) := addr_row _ _ _ (by decide) d

theorem rdTxState : Statement .rdTxState := addr_row _ _ _ (by decide) 0

theorem wrTxStateIgnored (d : Byte) : Statement (.wrTxStateIgnored d) := addr_row _ _ _ (by decide) d

theorem rdIdMaxlen : Statement .rdIdMaxlen := addr_row _ _ _ (by decide) 0

theorem wrIdMaxlenIgnored (d : Byte) : Statement (.wrIdMaxlenIgnored d) := addr_row _ _ _ (by decide) d

theorem rdIdPre1 : Statement .rdIdPre1 := addr_row _ _ _ (by decide) 0

theorem wrIdPre1Ignored (d : Byte) : Statement (.wrIdPre1Ignored d) := addr_row _ _ _ (by decide) d

theorem rdIdPre2 : Statement .rdIdPre2 := addr_row _ _ _ (by decide) 0

theorem wrIdPre2Ignored (d : Byte) : Statement (.wrIdPre2Ignored d) := addr_row _ _ _ (by decide) d

theorem rdIdDirtx : Statement .rdIdDirtx := addr_row _ _ _ (by decide) 0

theorem wrIdDirtxIgnored (d : Byte) : Statement (.wrIdDirtxIgnored d) := addr_row _ _ _ (by decide) d

theorem ctrlRxAck (hi : BitVec 6) : Statement (.ctrlRxAck hi) := by
  revert hi
  unfold Statement
  decide

theorem ctrlRxFlush (hi : BitVec 5) (b0 : BitVec 1) : Statement (.ctrlRxFlush hi b0) := by
  revert hi b0
  unfold Statement
  decide

theorem ctrlTxStart (hi : BitVec 4) (lo : BitVec 2) : Statement (.ctrlTxStart hi lo) := by
  revert hi lo
  unfold Statement
  decide

theorem ctrlSoftReset (lo : BitVec 7) : Statement (.ctrlSoftReset lo) := by
  revert lo
  unfold Statement
  decide

theorem rdRxBuf (i : Byte) : Statement (.rdRxBuf i) := region_row _ _ _ (by decide) i 0

theorem wrRxBufIgnored (i d : Byte) : Statement (.wrRxBufIgnored i d) := region_row _ _ _ (by decide) i d

theorem rdTxBuf (i : Byte) : Statement (.rdTxBuf i) := region_row _ _ _ (by decide) i 0

theorem wrTxBuf (i d : Byte) : Statement (.wrTxBuf i d) := region_row _ _ _ (by decide) i d

theorem rxByteHunt (b : Byte) : Statement (.rxByteHunt b) := byte_row b

theorem rxBytePre2 (b : Byte) : Statement (.rxBytePre2 b) := byte_row b

theorem rxByteDir (b : Byte) : Statement (.rxByteDir b) := byte_row b

theorem rxByteLen (b : Byte) : Statement (.rxByteLen b) := byte_row b

theorem rxByteCmd (b : Byte) : Statement (.rxByteCmd b) := byte_row b

theorem rxByteData (b : Byte) : Statement (.rxByteData b) := byte_row b

theorem rxByteCsum (b : Byte) : Statement (.rxByteCsum b) := byte_row b

theorem txBytePre1 : Statement .txBytePre1 := rfl

theorem txBytePre2 : Statement .txBytePre2 := rfl

theorem txByteDir : Statement .txByteDir := rfl

theorem txByteLen : Statement .txByteLen := rfl

theorem txByteCmd : Statement .txByteCmd := rfl

theorem txByteData : Statement .txByteData := rfl

theorem txByteCsum : Statement .txByteCsum := rfl

theorem cmdGetConfig : Statement .cmdGetConfig := rfl

theorem cmdSetConfig : Statement .cmdSetConfig := rfl

theorem cmdGetFix : Statement .cmdGetFix := rfl

theorem cmdEchoTest : Statement .cmdEchoTest := rfl

end Sys2Proof.Laws.EncodeFitsRow
end

