-- ==== Sys2Proof/Laws/Runs.lean ====
section
/-! SUPPORT. Runs of cycles. -/

namespace Sys2Proof.Machine

/-- A cycle without a reset that answers a next state is `advance` (R117). -/
theorem cycle_noReset {c : CycleIn} {s t : State} (hn : noReset c) (h : cycle c s = .next t) :
    ¬ (c.txReady = true ∧ sendsUnwritten s = true) ∧
      ∃ rd, (hostTransaction c.host s).rdata = .ok rd ∧
        t = advance (hostTransaction c.host s) (rxOffer c) c.txReady
          (ports (driven (hostTransaction c.host s) rd s) s) s := by
  rcases cycle_next h with ⟨h, -⟩ | ⟨-, h, -⟩ | ⟨-, hs, rd, hrd, h⟩
  · rw [hn.1] at h; cases h
  · rw [hn.2] at h; cases h
  · exact ⟨hs, rd, hrd, h⟩

/-- What a host transaction does depends on the registers only. -/
theorem hostTransaction_inputs (h : Option HostWord) (s : State) (j : List Input) :
    hostTransaction h { s with inputs := j } = hostTransaction h s := by
  unfold hostTransaction
  split
  · rfl
  · split
    · rename_i i _
      cases i <;> rfl
    · rfl

/-- A cycle keeps the list of inputs and does not look at it. -/
theorem cycle_inputs (c : CycleIn) (s : State) (j : List Input) :
    cycle c { s with inputs := j } =
      (match cycle c s with
       | .next t => .next { t with inputs := j }
       | .fault f => .fault f
       | .refused r => .refused r) := by
  unfold cycle
  split
  · rfl
  · rw [hostTransaction_inputs]
    unfold runCycle
    have e1 : sendsUnwritten { s with inputs := j } = sendsUnwritten s := rfl
    rw [e1]
    split
    · rfl
    · split
      · rfl
      · split
        · rfl
        · rfl

/-- The first cycle of a run that answers a next state. -/
theorem runCycles_cons {c : CycleIn} {cs : List CycleIn} {s t : State} (h : runCycles (c :: cs) s = .next t) :
    ∃ u, cycle c s = .next u ∧ runCycles cs u = .next t := by
  simp only [runCycles] at h
  split at h
  · exact ⟨_, by assumption, h⟩
  · cases h
  · cases h

/-- A run in two parts. -/
theorem runCycles_append (xs ys : List CycleIn) (s : State) :
    runCycles (xs ++ ys) s =
      (match runCycles xs s with
       | .next t => runCycles ys t
       | .fault f => .fault f
       | .refused r => .refused r) := by
  induction xs generalizing s with
  | nil => rfl
  | cons x xs ih =>
    simp only [List.cons_append, runCycles]
    cases cycle x s with
    | next t => exact ih t
    | fault f => rfl
    | refused r => rfl

/-- One more cycle at the end of a run. -/
theorem runCycles_snoc {xs : List CycleIn} {x : CycleIn} {s t u : State} (h : runCycles xs s = .next t)
    (h2 : cycle x t = .next u) : runCycles (xs ++ [x]) s = .next u := by
  rw [runCycles_append, h]
  simp [runCycles, h2]

end Sys2Proof.Machine
end

