-- ==== Sys2Proof/Tests/Slice0.lean ====
section
/-! SUPPORT. Tests. The expected values are spec/95_test_vectors.md's (ids E, P, H, X and R there) or read from the rule cited.
Section "Witnesses": for each obligation with hypotheses, a concrete state and operands that meet them, clause by
clause. -/

namespace Sys2Proof.Tests

open Sys2Proof.Machine

/-! ## Helpers -/

/-- The state after reset in the build of 95_test_vectors.md: 0x24, 0x4D, direction marker 0x3C, capacity 128. -/
def start : State :=
  { rx := .reset, tx := .reset, err := 0, cfg := { pre1 := 0x24, pre2 := 0x4D, dirTx := 0x3C, maxPayload := 128 },
    out := .reset, inputs := [], wire := none, resets := 0, writes := 0 }

/-- A parser in state `st`. -/
def rxIn (st : RxState) : State := { start with rx := { Parser.reset with state := st } }

/-- An encoder in state `st`. -/
def txIn (st : TxState) : State := { start with tx := { Encoder.reset with state := st } }

/-- The held frame of vectors P22, P23, H2: command 0xC4, payload 0x19. -/
def held19 : State :=
  { start with rx := { state := .hold, dir := 0x3C, len := 0x01, cmd := 0xC4, csum := 0xDC, acc := 0xDC, idx := 1,
                       result := .ok, sofQ := false, eofQ := false, buf := [(0, 0x19)] } }

/-- The held GET_FIX response of vectors H13 to H16. -/
def heldFix : State :=
  { start with rx := { state := .hold, dir := 0x3E, len := 0x0A, cmd := 0xC5, csum := 0xCA, acc := 0xCA, idx := 10,
                       result := .ok, sofQ := false, eofQ := false,
                       buf := [(0, 0x00), (1, 0x01), (2, 0x00), (3, 0x00), (4, 0x01), (5, 0x02), (6, 0x00), (7, 0x00),
                               (8, 0x03), (9, 0x04)] } }

/-- An idle encoder loaded with command 0xC4 and payload 0x19. -/
def loaded19 : State :=
  { start with tx := { Encoder.reset with len := 0x01, cmd := 0xC4, buf := [(0, 0x19)] } }

/-- The encoder about to send the payload byte of that frame (vectors E10, H28). -/
def sending19 : State :=
  { start with tx := { Encoder.reset with state := .data, len := 0x01, cmd := 0xC4, acc := 0xC5, buf := [(0, 0x19)] } }

/-- The parser waiting for payload byte 0 of a frame of length 2 (vectors P24, P26). -/
def receiving : State := { start with rx := { Parser.reset with state := .data, len := 0x02, acc := 0x02 } }

/-- The answer is a next state that meets `p`. -/
def nextIs (o : Host.Outcome State Fault Refusal) (p : State → Bool) : Bool :=
  match o with
  | .next t => p t
  | .fault _ => false
  | .refused _ => false

/-- The answer is the fault `f`. -/
def faultIs (o : Host.Outcome State Fault Refusal) (f : Fault) : Bool :=
  match o with
  | .next _ => false
  | .fault g => g == f
  | .refused _ => false

/-- The answer is the state `t` itself, the outputs of the cycle and the count of writes apart. -/
def becomes (o : Host.Outcome State Fault Refusal) (t : State) : Bool :=
  nextIs o fun u => { u with out := t.out, writes := t.writes } == t

/-- The read data of the cycle, in an otherwise unchanged state. -/
def reads (i : Instr) (s : State) (b : Byte) : Bool := nextIs (exec i s) fun u => u.out.hRdata == b && { u with out := s.out } == s

/-! ## WellFormed -/

/-- A WR_CTRL whose one command acts is the command's row (log 9). -/
theorem test_wellFormed_wrCtrl : Instr.wellFormed (.wrCtrl 0x01) = false ∧ Instr.wellFormed (.wrCtrl 0x02) = false ∧
    Instr.wellFormed (.wrCtrl 0x04) = false ∧ Instr.wellFormed (.wrCtrl 0x80) = false ∧
    Instr.wellFormed (.wrCtrl 0x05) = true ∧ Instr.wellFormed (.wrCtrl 0x78) = true := by decide

/-- RX_ACK with RX_FLUSH or TX_START. -/
theorem test_wellFormed_ctrlRxAck : Instr.wellFormed (.ctrlRxAck 0b000001) = false ∧
    Instr.wellFormed (.ctrlRxAck 0b000010) = false ∧ Instr.wellFormed (.ctrlRxAck 0b111100) = true := by decide

/-- RX_FLUSH with TX_START. -/
theorem test_wellFormed_ctrlRxFlush : Instr.wellFormed (.ctrlRxFlush 0b00001 0) = false ∧
    Instr.wellFormed (.ctrlRxFlush 0b11110 1) = true := by decide

/-- TX_START with RX_ACK or RX_FLUSH. -/
theorem test_wellFormed_ctrlTxStart : Instr.wellFormed (.ctrlTxStart 0 0b01) = false ∧
    Instr.wellFormed (.ctrlTxStart 0 0b10) = false ∧ Instr.wellFormed (.ctrlTxStart 0b1111 0b00) = true := by decide

/-! ## Decode: words written out as W, A, D from 30_encoding.md R88 and R90 -/

/-- The reads of R90; D is ignored. -/
theorem test_decode_reads :
    decodeHost 0b0_0000000000_00000000#19 = .ok .rdCtrl ∧ decodeHost 0b0_0000000001_11111111#19 = .ok .rdStatus ∧
    decodeHost 0b0_0000000010_00000000#19 = .ok .rdErr ∧ decodeHost 0b0_0000000011_00000000#19 = .ok .rdRxResult ∧
    decodeHost 0b0_0000000100_00000000#19 = .ok .rdRxDir ∧ decodeHost 0b0_0000000101_00000000#19 = .ok .rdRxLen ∧
    decodeHost 0b0_0000000110_00000000#19 = .ok .rdRxCmd ∧ decodeHost 0b0_0000000111_00000000#19 = .ok .rdRxCsum ∧
    decodeHost 0b0_0000001000_00000000#19 = .ok .rdTxLen ∧ decodeHost 0b0_0000001001_00000000#19 = .ok .rdTxCmd ∧
    decodeHost 0b0_0000001010_00000000#19 = .ok .rdTxCsum ∧ decodeHost 0b0_0000001011_00000000#19 = .ok .rdTxState ∧
    decodeHost 0b0_0000001100_00000000#19 = .ok .rdIdMaxlen ∧ decodeHost 0b0_0000001101_00000000#19 = .ok .rdIdPre1 ∧
    decodeHost 0b0_0000001110_00000000#19 = .ok .rdIdPre2 ∧ decodeHost 0b0_0000001111_00000000#19 = .ok .rdIdDirtx ∧
    decodeHost 0b0_1000000010_00000000#19 = .ok (.rdRxBuf 0b00000010) ∧
    decodeHost 0b0_1111111111_00000000#19 = .ok (.rdTxBuf 0b11111111) := by decide

/-- The writes of R90. -/
theorem test_decode_writes :
    decodeHost 0b1_0000000001_00000001#19 = .ok (.wrStatusIgnored 0b00000001) ∧
    decodeHost 0b1_0000000010_00011111#19 = .ok (.wrErr 0b00011111) ∧
    decodeHost 0b1_0000000011_00000010#19 = .ok (.wrRxResultIgnored 0b00000010) ∧
    decodeHost 0b1_0000000100_00000011#19 = .ok (.wrRxDirIgnored 0b00000011) ∧
    decodeHost 0b1_0000000101_00000100#19 = .ok (.wrRxLenIgnored 0b00000100) ∧
    decodeHost 0b1_0000000110_00000101#19 = .ok (.wrRxCmdIgnored 0b00000101) ∧
    decodeHost 0b1_0000000111_00000110#19 = .ok (.wrRxCsumIgnored 0b00000110) ∧
    decodeHost 0b1_0000001000_00000001#19 = .ok (.wrTxLen 0b00000001) ∧
    decodeHost 0b1_0000001001_11000100#19 = .ok (.wrTxCmd 0b11000100) ∧
    decodeHost 0b1_0000001010_00000111#19 = .ok (.wrTxCsumIgnored 0b00000111) ∧
    decodeHost 0b1_0000001011_00001000#19 = .ok (.wrTxStateIgnored 0b00001000) ∧
    decodeHost 0b1_0000001100_00010000#19 = .ok (.wrIdMaxlenIgnored 0b00010000) ∧
    decodeHost 0b1_0000001101_00100000#19 = .ok (.wrIdPre1Ignored 0b00100000) ∧
    decodeHost 0b1_0000001110_01000000#19 = .ok (.wrIdPre2Ignored 0b01000000) ∧
    decodeHost 0b1_0000001111_10000000#19 = .ok (.wrIdDirtxIgnored 0b10000000) ∧
    decodeHost 0b1_1000000000_01010101#19 = .ok (.wrRxBufIgnored 0b00000000 0b01010101) ∧
    decodeHost 0b1_1100000000_00011001#19 = .ok (.wrTxBuf 0b00000000 0b00011001) := by decide

/-- The CTRL writes (R44, R99; log 9). -/
theorem test_decode_ctrl :
    decodeHost 0b1_0000000000_00000001#19 = .ok (.ctrlRxAck 0b000000) ∧
    decodeHost 0b1_0000000000_00000010#19 = .ok (.ctrlRxFlush 0b00000 0b0) ∧
    decodeHost 0b1_0000000000_00000011#19 = .ok (.ctrlRxFlush 0b00000 0b1) ∧
    decodeHost 0b1_0000000000_01000100#19 = .ok (.ctrlTxStart 0b1000 0b00) ∧
    decodeHost 0b1_0000000000_10000111#19 = .ok (.ctrlSoftReset 0b0000111) ∧
    decodeHost 0b1_0000000000_00000101#19 = .ok (.wrCtrl 0b00000101) ∧
    decodeHost 0b1_0000000000_00000000#19 = .ok (.wrCtrl 0b00000000) := by decide

/-- The stream rows by state (R91, R99) and the wire commands (R240). -/
theorem test_decode_streams :
    decodeRx .hunt 0x24 = .ok (.rxByteHunt 0x24) ∧ decodeRx .pre2 0x4D = .ok (.rxBytePre2 0x4D) ∧
    decodeRx .dir 0x3E = .ok (.rxByteDir 0x3E) ∧ decodeRx .len 0x0A = .ok (.rxByteLen 0x0A) ∧
    decodeRx .cmd 0xC5 = .ok (.rxByteCmd 0xC5) ∧ decodeRx .data 0x19 = .ok (.rxByteData 0x19) ∧
    decodeRx .csum 0xDC = .ok (.rxByteCsum 0xDC) ∧ decodeTx .pre1 = .ok .txBytePre1 ∧ decodeTx .pre2 = .ok .txBytePre2 ∧
    decodeTx .dir = .ok .txByteDir ∧ decodeTx .len = .ok .txByteLen ∧ decodeTx .cmd = .ok .txByteCmd ∧
    decodeTx .data = .ok .txByteData ∧ decodeTx .csum = .ok .txByteCsum ∧ decodeWire 0b11000011 = .ok .cmdGetConfig ∧
    decodeWire 0b11000100 = .ok .cmdSetConfig ∧ decodeWire 0b11000101 = .ok .cmdGetFix ∧
    decodeWire 0b11000110 = .ok .cmdEchoTest := by decide

/-- What is no row: 0x010, 0x0FF, 0x100, 0x1FF (R89, R92), a byte in HOLD, a transfer in IDLE, 0xC2 and 0xC7. -/
theorem test_decode_refused :
    decodeHost 0b0_0000010000_00000000#19 = .error .reservedAddress ∧
    decodeHost 0b1_0011111111_00000000#19 = .error .reservedAddress ∧
    decodeHost 0b1_0100000000_00000000#19 = .error .reservedAddress ∧
    decodeHost 0b0_0111111111_00000000#19 = .error .reservedAddress ∧ decodeRx .hold 0x24 = .error .notReady ∧
    decodeTx .idle = .error .notValid ∧ decodeWire 0xC2 = .error .noContract ∧ decodeWire 0xC7 = .error .noContract := by
  decide

/-- The words by number of bits (log 14). -/
theorem test_decodeTableWord : decodeTableWord 24 0x40801 = some (.wrTxLen 0x01) ∧ decodeTableWord 8 0x24 = some (.rxByteHunt 0x24) ∧
    decodeTableWord 8 0xC5 = some .cmdGetFix ∧ decodeTableWord 0 0 = some .txBytePre1 ∧
    decodeTableWord 24 0x01000 = none ∧ decodeTableWord 24 0x80000 = none := by decide

/-! ## One step -/

/-- Vectors H6, H7, H12, H24, H26, H27, H28, H30, H31, H29, H32. -/
theorem test_reads_unmasked : reads .rdCtrl { start with tx := { Encoder.reset with len := 0x01 } } 0x00 = true ∧
    reads .rdErr { start with err := 0x1F } 0x1F = true ∧
    reads .rdRxResult { start with rx := { Parser.reset with result := .csumMismatch } } 0x02 = true ∧
    reads .rdTxLen { start with tx := { Encoder.reset with len := 0x21 } } 0x21 = true ∧
    reads .rdTxCmd { start with tx := { Encoder.reset with cmd := 0xC6 } } 0xC6 = true ∧
    reads .rdTxCsum { start with tx := { Encoder.reset with csum := 0xDC } } 0xDC = true ∧
    reads .rdTxState sending19 0x06 = true ∧ reads .rdIdMaxlen start 0x80 = true ∧ reads .rdIdPre1 start 0x24 = true ∧
    reads .rdIdPre2 start 0x4D = true ∧ reads .rdIdDirtx start 0x3C = true := by decide

/-- Vectors H1, H2, H3, H4. -/
theorem test_rdStatus : reads .rdStatus start 0x00 = true ∧ reads .rdStatus held19 0x71 = true ∧
    reads .rdStatus { receiving with tx := { Encoder.reset with state := .len, len := 0x01 }, err := 0x01 } 0x56 = true ∧
    reads .rdStatus { rxIn .pre2 with err := 0x10 } 0x14 = true := by decide

/-- Vectors H13 to H16 (masked fields while held) and H17 (0x00 otherwise). -/
theorem test_reads_masked : reads .rdRxDir heldFix 0x3E = true ∧ reads .rdRxLen heldFix 0x0A = true ∧
    reads .rdRxCmd heldFix 0xC5 = true ∧ reads .rdRxCsum heldFix 0xCA = true ∧
    reads .rdRxCmd { heldFix with rx := { heldFix.rx with state := .hunt } } 0x00 = true := by decide

/-- Vectors H18 to H20. -/
theorem test_rdRxBuf : reads (.rdRxBuf 0x00) held19 0x19 = true ∧ reads (.rdRxBuf 0x01) held19 0x00 = true ∧
    reads (.rdRxBuf 0x09) heldFix 0x04 = true ∧
    reads (.rdRxBuf 0x00) { held19 with rx := { held19.rx with state := .data, len := 0x03 } } 0x00 = true := by decide

/-- Vectors H34 to H37. -/
theorem test_rdTxBuf : reads (.rdTxBuf 0x00) loaded19 0x19 = true ∧ reads (.rdTxBuf 0x00) sending19 0x19 = true ∧
    reads (.rdTxBuf 0xFF) start 0x00 = true ∧ faultIs (exec (.rdTxBuf 0x05) start) (.readUnwritten 5) = true := by decide

/-- Vectors H38 to H40. -/
theorem test_ignored_writes : becomes (exec (.wrStatusIgnored 0xFF) start) start = true ∧
    becomes (exec (.wrRxResultIgnored 0xFF) held19) held19 = true ∧ becomes (exec (.wrRxDirIgnored 0xFF) held19) held19 = true ∧
    becomes (exec (.wrRxLenIgnored 0xFF) held19) held19 = true ∧ becomes (exec (.wrRxCmdIgnored 0xFF) held19) held19 = true ∧
    becomes (exec (.wrRxCsumIgnored 0xFF) held19) held19 = true ∧ becomes (exec (.wrTxCsumIgnored 0xFF) start) start = true ∧
    becomes (exec (.wrTxStateIgnored 0xFF) start) start = true ∧ becomes (exec (.wrIdMaxlenIgnored 0x10) start) start = true ∧
    becomes (exec (.wrIdPre1Ignored 0x10) start) start = true ∧ becomes (exec (.wrIdPre2Ignored 0x10) start) start = true ∧
    becomes (exec (.wrIdDirtxIgnored 0x10) start) start = true ∧
    becomes (exec (.wrRxBufIgnored 0x00 0x55) held19) held19 = true := by decide

/-- Vectors H8, H9, H11 (a new flag stays). -/
theorem test_wrErr : becomes (exec (.wrErr 0x01) { start with err := 0x13 }) { start with err := 0x12 } = true ∧
    becomes (exec (.wrErr 0xFF) { start with err := 0x13 }) start = true ∧
    becomes (cycle (joinRx (lineWrite 0x002 0x02) 0x00) { start with err := 0x02 }) { start with err := 0x01 } = true := by
  decide

/-- Vectors H23, H25, E21, E22 (refused while busy). -/
theorem test_wrTxLen_wrTxCmd :
    becomes (exec (.wrTxLen 0x21) start) { start with tx := { Encoder.reset with len := 0x21 } } = true ∧
    becomes (exec (.wrTxCmd 0xC6) start) { start with tx := { Encoder.reset with cmd := 0xC6 } } = true ∧
    becomes (exec (.wrTxLen 0x05) (txIn .len)) { txIn .len with err := 0x10 } = true ∧
    becomes (cycle (joinTxr (lineWrite 0x009 0xC5)) (txIn .dir)) { txIn .len with err := 0x10 } = true := by decide

/-- Vectors H33, E25, E23, E24. -/
theorem test_wrTxBuf :
    becomes (exec (.wrTxBuf 0x00 0x19) start) { start with tx := { Encoder.reset with buf := [(0, 0x19)] } } = true ∧
    becomes (exec (.wrTxBuf 0x7F 0xAB) start) { start with tx := { Encoder.reset with buf := [(127, 0xAB)] } } = true ∧
    becomes (exec (.wrTxBuf 0x00 0x20) sending19) { sending19 with err := 0x10 } = true ∧
    becomes (exec (.wrTxBuf 0x80 0x20) (txIn .pre2)) (txIn .pre2) = true := by decide

/-- Vectors H5 and P30's write with TX_START too: R192, R161. -/
theorem test_wrCtrl : becomes (exec (.wrCtrl 0x00) start) start = true ∧
    nextIs (exec (.wrCtrl 0x07) receiving) (fun t => t.rx.state == .hunt && t.rx.result == .aborted && t.err == 0x08 &&
      t.tx.state == .pre1) = true := by decide

/-- Vectors P23 and P24. -/
theorem test_ctrlRxAck :
    becomes (exec (.ctrlRxAck 0) held19) { held19 with rx := { held19.rx with state := .hunt } } = true ∧
    becomes (cycle (joinRx lineAck 0x05) receiving) { receiving with
      rx := { receiving.rx with acc := 0x07, idx := 1, buf := [(0, 0x05)] } } = true := by decide

/-- Vectors P26 (its byte is lost) and P27. -/
theorem test_ctrlRxFlush :
    becomes (cycle (joinRx lineFlush 0x05) receiving) { receiving with
      rx := { receiving.rx with state := .hunt, result := .aborted, eofQ := true }, err := 0x08 } = true ∧
    becomes (exec (.ctrlRxFlush 0 0) (rxIn .pre2)) start = true := by decide

/-- Vectors E1, E15, E16, E18. -/
theorem test_ctrlTxStart :
    becomes (exec (.ctrlTxStart 0 0) loaded19) { loaded19 with tx := { loaded19.tx with state := .pre1 } } = true ∧
    becomes (exec (.ctrlTxStart 0 0) sending19) { sending19 with err := 0x10 } = true ∧
    becomes (cycle (joinTxr lineStart) (txIn .csum)) { start with err := 0x10 } = true ∧
    becomes (exec (.ctrlTxStart 0 0) { start with tx := { Encoder.reset with len := 0x81 } })
      { start with tx := { Encoder.reset with len := 0x81 }, err := 0x10 } = true := by decide

/-- 70_reset_and_hazards.md R293: the buffers are kept; the rest is as after reset. -/
theorem test_ctrlSoftReset :
    becomes (exec (.ctrlSoftReset 0x07) { held19 with tx := sending19.tx, err := 0x1F })
      { start with rx := { Parser.reset with buf := [(0, 0x19)] }, tx := { Encoder.reset with buf := [(0, 0x19)] } } = true ∧
    becomes (cycle { lineSrst with rst := true } { held19 with tx := sending19.tx, err := 0x1F })
      { start with resets := 1 } = true := by decide

/-- Vectors P1, P3. -/
theorem test_rxByteHunt : becomes (exec (.rxByteHunt 0x24) start) (rxIn .pre2) = true ∧
    becomes (exec (.rxByteHunt 0x4D) start) { start with err := 0x01 } = true := by decide

/-- Vectors P4, P5, P6; the last with equal preamble bytes (R153). -/
theorem test_rxBytePre2 :
    becomes (exec (.rxBytePre2 0x4D) (rxIn .pre2)) { start with rx := { Parser.reset with state := .dir, sofQ := true } } = true ∧
    becomes (exec (.rxBytePre2 0x24) (rxIn .pre2)) { rxIn .pre2 with err := 0x01 } = true ∧
    becomes (exec (.rxBytePre2 0x41) (rxIn .pre2)) { start with err := 0x01 } = true ∧
    nextIs (exec (.rxBytePre2 0xAA) { rxIn .pre2 with cfg := { start.cfg with pre1 := 0xAA, pre2 := 0xAA } })
      (fun t => t.rx.state == .dir && t.err == 0) = true := by decide

/-- Vector P7. -/
theorem test_rxByteDir :
    becomes (exec (.rxByteDir 0x3E) { start with rx := { Parser.reset with state := .dir, sofQ := true } })
      { start with rx := { Parser.reset with state := .len, dir := 0x3E } } = true := by decide

/-- Vectors P11, P12. -/
theorem test_rxByteLen :
    becomes (exec (.rxByteLen 0x80) (rxIn .len)) { start with rx := { Parser.reset with state := .cmd, len := 0x80, acc := 0x80 } } = true ∧
    becomes (exec (.rxByteLen 0x81) (rxIn .len)) { start with
      rx := { Parser.reset with len := 0x81, acc := 0x81, result := .lenOverflow, eofQ := true }, err := 0x04 } = true := by
  decide

/-- Vectors P14, P15. -/
theorem test_rxByteCmd :
    becomes (exec (.rxByteCmd 0xC5) { start with rx := { Parser.reset with state := .cmd, len := 0x0A, acc := 0x0A } })
      { start with rx := { Parser.reset with state := .data, len := 0x0A, cmd := 0xC5, acc := 0xCF } } = true ∧
    becomes (exec (.rxByteCmd 0xC3) (rxIn .cmd))
      { start with rx := { Parser.reset with state := .csum, cmd := 0xC3, acc := 0xC3 } } = true := by decide

/-- Vectors P17, P18. -/
theorem test_rxByteData :
    becomes (exec (.rxByteData 0x19) { start with rx := { Parser.reset with state := .data, len := 0x01, cmd := 0xC4, acc := 0xC5 } })
      { start with rx := { Parser.reset with state := .csum, len := 0x01, cmd := 0xC4, acc := 0xDC, idx := 1, buf := [(0, 0x19)] } }
      = true ∧
    becomes (exec (.rxByteData 0x4D) { start with
        rx := { Parser.reset with state := .data, len := 0x04, idx := 1, cmd := 0xC6, acc := 0xE6, buf := [(0, 0x24)] } })
      { start with
        rx := { Parser.reset with state := .data, len := 0x04, idx := 2, cmd := 0xC6, acc := 0xAB,
                                  buf := [(0, 0x24), (1, 0x4D)] } } = true := by decide

/-- Vectors P19, P20. -/
theorem test_rxByteCsum :
    becomes (exec (.rxByteCsum 0xDC) { held19 with rx := { held19.rx with state := .csum, dir := 0, csum := 0, result := .none } })
      { held19 with rx := { held19.rx with dir := 0, eofQ := true } } = true ∧
    becomes (exec (.rxByteCsum 0xDD) { held19 with rx := { held19.rx with state := .csum, dir := 0, csum := 0, result := .none } })
      { held19 with
        rx := { held19.rx with state := .hunt, dir := 0, csum := 0xDD, result := .csumMismatch, eofQ := true }, err := 0x02 }
      = true := by decide

/-- Vectors E3 to E6: the byte sent, and the next state. -/
theorem test_tx_header :
    nextIs (exec .txBytePre1 (txIn .pre1)) (fun t => t.out.txData == 0x24 && t.tx == { Encoder.reset with state := .pre2 }) = true ∧
    nextIs (exec .txBytePre2 (txIn .pre2)) (fun t => t.out.txData == 0x4D && t.tx == { Encoder.reset with state := .dir }) = true ∧
    nextIs (exec .txByteDir (txIn .dir)) (fun t => t.out.txData == 0x3C && t.tx == { Encoder.reset with state := .len }) = true ∧
    nextIs (exec .txByteLen { start with tx := { Encoder.reset with state := .len, len := 0x01 } })
      (fun t => t.out.txData == 0x01 && t.tx == { Encoder.reset with state := .cmd, len := 0x01, acc := 0x01 }) = true := by
  decide

/-- Vectors E7, E8. -/
theorem test_txByteCmd :
    nextIs (exec .txByteCmd { start with tx := { Encoder.reset with state := .cmd, len := 0x01, cmd := 0xC4, acc := 0x01 } })
      (fun t => t.out.txData == 0xC4 && t.tx.state == .data && t.tx.acc == 0xC5) = true ∧
    nextIs (exec .txByteCmd { start with tx := { Encoder.reset with state := .cmd, cmd := 0xC5 } })
      (fun t => t.out.txData == 0xC5 && t.tx.state == .csum && t.tx.acc == 0xC5) = true := by decide

/-- Vectors E10, E12. -/
theorem test_txByteData :
    nextIs (exec .txByteData sending19)
      (fun t => t.out.txData == 0x19 && t.tx == { sending19.tx with state := .csum, acc := 0xDC, idx := 1 }) = true ∧
    faultIs (exec .txByteData { start with
      tx := { Encoder.reset with state := .data, len := 0x02, cmd := 0x26, idx := 1, buf := [(0, 0x24)] } })
      (.sendUnwritten 1) = true := by decide

/-- Vector E13. -/
theorem test_txByteCsum :
    nextIs (exec .txByteCsum { sending19 with tx := { sending19.tx with state := .csum, acc := 0xDC, idx := 1 } })
      (fun t => t.out.txData == 0xDC && t.tx.csum == 0xDC && t.tx.state == .idle && t.tx.acc == 0xDC) = true := by decide

/-- The vector table of section 5 of 95_test_vectors.md (GET_FIX) and R241, R242, R244 on the same held bytes. -/
theorem test_wire :
    nextIs (exec .cmdGetFix heldFix) (fun t => t.wire.bind WireReport.response == some (.getFix 0 1 0x00000102 0x00000304)) = true ∧
    nextIs (exec .cmdGetFix { heldFix with rx := { heldFix.rx with len := 0x09 } })
      (fun t => t.wire.bind WireReport.response == none) = true ∧
    nextIs (exec .cmdGetConfig { held19 with rx := { held19.rx with cmd := 0xC3, len := 0x02, buf := [(0, 0x00), (1, 0x19)] } })
      (fun t => t.wire.bind WireReport.response == some (.getConfig 0x00 0x19)) = true ∧
    nextIs (exec .cmdSetConfig held19) (fun t => t.wire.bind WireReport.response == some (.setConfig 0x19)) = true ∧
    nextIs (exec .cmdEchoTest { heldFix with rx := { heldFix.rx with cmd := 0xC6, len := 0x02 } })
      (fun t => t.wire.bind WireReport.response == some (.echoTest 0x00 [0x01])) = true := by decide

/-- The request frames of W7, and the sum and byte count of the echo request there. -/
theorem test_requests :
    let echo : Request := .echoTest 0x04 (Vector.ofFn fun i => ([0x11, 0x22, 0x33, 0x44] : List Byte).getD i 0)
    requestFrame start.cfg .getConfig = [0x24, 0x4D, 0x3C, 0x00, 0xC3, 0xC3] ∧
    requestFrame start.cfg (.setConfig 25) = [0x24, 0x4D, 0x3C, 0x01, 0xC4, 0x19, 0xDC] ∧
    requestFrame start.cfg .getFix = [0x24, 0x4D, 0x3C, 0x00, 0xC5, 0xC5] ∧
    (requestFrame start.cfg echo).take 10 = [0x24, 0x4D, 0x3C, 0x21, 0xC6, 0x04, 0x11, 0x22, 0x33, 0x44] ∧
    (requestFrame start.cfg echo).drop 10 = List.replicate 28 0x00 ++ [0xA7] := by decide

/-- Vectors H41, H43, H44 and P22: a reserved read and write, an idle cycle, a byte offered in HOLD. -/
theorem test_no_row :
    nextIs (cycle (lineRead 0x010) start) (fun t => t.out.hRdata == 0 && { t with out := start.out } == start) = true ∧
    becomes (cycle (lineWrite 0x123 0x45) start) start = true ∧ becomes (cycle lineNop { start with err := 0x03 }) { start with err := 0x03 } = true ∧
    nextIs (cycle (lineRx 0x24) { held19 with rx := { held19.rx with eofQ := true } })
      (fun t => t.out.rxReady == false && t.out.rxEof == true && t.rx == held19.rx) = true := by decide

/-- A placed word is the first instruction after reset (log 14). -/
theorem test_withFetchWord :
    nextIs (step (start.withFetchWord 24 0x40801)) (fun t => t.tx.len == 0x01 && t.inputs == []) = true ∧
    nextIs (step (start.withFetchWord 8 0x24)) (fun t => t.rx.state == .pre2) = true ∧
    nextIs (step (start.withFetchWord 0 0)) (fun t => t.tx.state == .pre2) = true ∧
    nextIs (step (start.withFetchWord 8 0xC4)) (fun t => t.wire.isSome) = true := by decide

/-! ## Witnesses

`alone op` is `start` with the one input `op`; the statements' hypotheses are read off the theorem's conjuncts in order.
-/

/-- `start` with these inputs. -/
def alone (op : List Input) : State := { start with inputs := op }

/-- The payload of the witnesses for statements about frames. -/
def payload : List Byte := [0x19]

theorem holds_payload : loaded19.tx.buf.holds payload := by
  unfold Memory.holds
  decide

theorem witness_DecodeEncodeRoundTrip :
    (Instr.wrCtrl 0x05).wellFormed = true ∧ rowSelected .hunt .idle (.wrCtrl 0x05) = true ∧
    (Instr.ctrlRxFlush 0b11110 1).wellFormed = true ∧ rowSelected .hold .csum (.rxByteHunt 0) = false ∧
    (Instr.rxByteCsum 0xFF).wellFormed = true ∧ rowSelected .csum .idle (.rxByteCsum 0xFF) = true ∧
    (Instr.txByteData).wellFormed = true ∧ rowSelected .hunt .data .txByteData = true := by decide

theorem witness_DecodedOperationFitsItsTableRow :
    decode .hunt .idle (.host 0x40005) = .ok (.wrCtrl 0x05) ∧ decode .len .idle (.rx 0xFF) = .ok (.rxByteLen 0xFF) ∧
    decode .hold .csum .tx = .ok .txByteCsum ∧ decode .hold .idle (.wire 0xC6) = .ok .cmdEchoTest := by decide

theorem witness_UnmatchedHostWordsAreTheReservedOnes :
    (0x010#10 ≤ wordAddr 0x01000 ∧ wordAddr 0x01000 ≤ 0x1FF#10) ∧ (0x010#10 ≤ wordAddr 0x5FFFF ∧ wordAddr 0x5FFFF ≤ 0x1FF#10) ∧
    decodeHost 0x00FFF = .ok .rdIdDirtx ∧ decodeHost 0x60000 = .ok (.wrRxBufIgnored 0 0) := by decide

theorem witness_StepRunsDecodedInstruction :
    (alone [.cycle { host := some 0x40801 }]).inputs = .cycle { host := some 0x40801 } :: [] ∧
      decodeHost 0x40801 = .ok (.wrTxLen 0x01) ∧
    (alone [.cycle { rxValid := true, rxData := 0x24 }]).inputs = .cycle { rxValid := true, rxData := 0x24 } :: [] ∧
      decodeRx start.rx.state 0x24 = .ok (.rxByteHunt 0x24) ∧
    ({ txIn .csum with inputs := [.cycle { txReady := true }] } : State).inputs = .cycle { txReady := true } :: [] ∧
      decodeTx (txIn .csum).tx.state = .ok .txByteCsum ∧
    (alone [.classify 0xC3]).inputs = .classify 0xC3 :: [] ∧ decodeWire 0xC3 = .ok .cmdGetConfig ∧
    start.inputs = [] := by decide

theorem witness_ReservedAccessReadsZeroAndWritesNothing :
    (alone [.cycle { host := some 0x01000 }]).inputs = .cycle { host := some 0x01000 } :: [] ∧
      0x010 ≤ wordAddr 0x01000 ∧ wordAddr 0x01000 ≤ 0x1FF ∧
    (alone [.cycle { host := some 0x5FFFF }]).inputs = .cycle { host := some 0x5FFFF } :: [] ∧
      0x010 ≤ wordAddr 0x5FFFF ∧ wordAddr 0x5FFFF ≤ 0x1FF := by decide

theorem witness_HostAccessesFollowTheAddressMap :
    (alone [.cycle { host := some (hostWord false 0x3FF 0) }]).inputs = .cycle { host := some (hostWord false 0x3FF 0) } :: [] ∧
      (memRead 0x3FF start).toOption = some 0x00 ∧
    (alone [.cycle { host := some (hostWord false 0x37F 0) }]).inputs = .cycle { host := some (hostWord false 0x37F 0) } :: [] ∧
      (match memRead 0x37F start with | .error f => f == .readUnwritten 127 | .ok _ => false) = true ∧
    (alone [.cycle { host := some (hostWord true 0x3FF 7) }]).inputs = .cycle { host := some (hostWord true 0x3FF 7) } :: [] := by
  decide

/-- A cycle with every input active, and one with `rst` (OutputsFollowTheStartOfCycleState, FlagsAreSticky). -/
theorem witness_OutputsFollowTheStartOfCycleState :
    (∃ t, cycle { rst := true, host := some 0x00100, rxValid := true, txReady := true } sending19 = .next t) ∧
    (∃ t, cycle { host := some 0x00100, rxValid := true, txReady := true } sending19 = .next t) ∧
    (∃ t, cycle {} held19 = .next t) := ⟨⟨_, rfl⟩, ⟨_, rfl⟩, ⟨_, rfl⟩⟩

/-- Two idle cycles with an untaken byte, an unused ready, or nothing. -/
theorem witness_IdleCycleClearsOnlyThePulses :
    let idle (s : State) (c : CycleIn) : Prop := c.rst = false ∧ c.host = none ∧ (c.rxValid = true → s.rx.state = .hold) ∧
      (c.txReady = true → s.tx.state = .idle)
    (∀ c ∈ [lineRx 0x24, lineTxr], idle held19 c) ∧ idle receiving lineNop ∧ quiescent start ∧ quiescent held19 := by
  unfold quiescent
  decide

theorem witness_ReceivedFieldsReadOnlyWhileHeld : held19.rx.state = .hold ∧ (rxIn .csum).rx.state ≠ .hold := by decide

theorem witness_RxWindowShowsOnlyTheHeldPayload :
    (heldFix.rx.state = .hold ∧ (0x09 : Byte) < heldFix.rx.len ∧ heldFix.rx.buf.read (0x09 : Byte).toNat = some 0x04) ∧
    ¬ (heldFix.rx.state = .hold ∧ (0x0A : Byte) < heldFix.rx.len) ∧ ¬ (receiving.rx.state = .hold ∧ (0x00 : Byte) < receiving.rx.len) := by
  decide

theorem witness_TxWindowReadsTheStoredByte :
    ((0x00 : Byte) < loaded19.cfg.maxPayload ∧ loaded19.tx.buf.read (0x00 : Byte).toNat = some 0x19) ∧
    ((0x7F : Byte) < loaded19.cfg.maxPayload ∧ loaded19.tx.buf.read (0x7F : Byte).toNat = none) ∧
    loaded19.cfg.maxPayload ≤ (0x80 : Byte) := by decide

theorem witness_ReadOnlyWritesAreIgnored :
    ((0x010 : HostAddr) ≤ 0x010 ∧ (0x010 : HostAddr) ≤ 0x1FF ∧
      (alone [.cycle { host := some (hostWord true 0x010 5) }]).inputs = .cycle { host := some (hostWord true 0x010 5) } :: []) ∧
    ((0x010 : HostAddr) ≤ 0x1FF ∧ (0x1FF : HostAddr) ≤ 0x1FF ∧
      (alone [.cycle { host := some (hostWord true 0x1FF 5) }]).inputs = .cycle { host := some (hostWord true 0x1FF 5) } :: []) := by
  decide

/-- For each event a state and byte that raise it, at the boundary values (capacity 128), and a byte that raises none. -/
theorem witness_ErrWriteClearsFlagsButNotNewOnes :
    let c (b : Byte) : CycleIn := { host := some (hostWord true 0x002 0x1F), rxValid := true, rxData := b, txReady := true }
    (∀ b, (c b).rst = false ∧ (c b).host = some (hostWord true 0x002 0x1F) ∧ rxOffer (c b) = some b) ∧
    (∀ st ∈ [RxState.hunt, .pre2, .len, .csum, .hold], sendsUnwritten (rxIn st) = false) ∧
    parserEvent start.cfg (rxIn .hunt).rx 0x4D = 0b00001 ∧ parserEvent start.cfg (rxIn .hunt).rx 0x24 = 0 ∧
    parserEvent start.cfg (rxIn .pre2).rx 0x24 = 0b00001 ∧ parserEvent start.cfg (rxIn .pre2).rx 0x4D = 0 ∧
    parserEvent start.cfg (rxIn .len).rx 129 = 0b00100 ∧ parserEvent start.cfg (rxIn .len).rx 128 = 0 ∧
    parserEvent start.cfg (rxIn .csum).rx 0x01 = 0b00010 ∧ parserEvent start.cfg (rxIn .csum).rx 0x00 = 0 ∧
    parserEvent start.cfg (rxIn .hold).rx 0x01 = 0 := by
  refine ⟨fun b => ⟨rfl, rfl, rfl⟩, ?_⟩
  decide

theorem witness_TxLenAndCmdAreWrittenOnlyWhileIdle : start.tx.state = .idle ∧ (txIn .pre1).tx.state ≠ .idle := by decide

theorem witness_TxWindowIsWrittenOnlyWhileIdle :
    start.cfg.maxPayload ≤ (0x80 : Byte) ∧ ((0x7F : Byte) < start.cfg.maxPayload ∧ start.tx.state = .idle) ∧
    ((0x7F : Byte) < sending19.cfg.maxPayload ∧ sending19.tx.state ≠ .idle) := by decide

theorem witness_CtrlWriteRunsItsCommands : (0x80 : Byte).getLsbD 7 = true ∧ (0x7F : Byte).getLsbD 7 = false := by decide

theorem witness_RxAckReleasesTheHeldFrame :
    (0b111100 : BitVec 6).getLsbD 0 = false ∧ (0b111100 : BitVec 6).getLsbD 1 = false ∧ held19.rx.state = .hold ∧
    receiving.rx.state ≠ .hold ∧ ((0x004 : HostAddr) ≤ 0x004 ∧ (0x007 : HostAddr) ≤ 0x007) ∧
    ((0x200 : HostAddr) ≤ 0x2FF ∧ (0x2FF : HostAddr) ≤ 0x2FF) := by decide

theorem witness_RxFlushAbandonsTheFrame :
    (0b11110 : BitVec 5).getLsbD 0 = false ∧ inFrame receiving.rx = true ∧ inFrame (rxIn .dir).rx = true ∧
    inFrame held19.rx = false ∧ inFrame (rxIn .pre2).rx = false := by decide

theorem witness_TxStartStartsOrIsRefused :
    let full : State := { start with tx := { Encoder.reset with len := 0x80 } }
    let long : State := { start with tx := { Encoder.reset with len := 0x81 } }
    (full.tx.state = .idle ∧ full.tx.len ≤ full.cfg.maxPayload) ∧
    (sending19.tx.state ≠ .idle ∨ sending19.cfg.maxPayload < sending19.tx.len) ∧
    (long.tx.state ≠ .idle ∨ long.cfg.maxPayload < long.tx.len) := by decide

theorem witness_SoftResetOverridesItsCycle :
    let c : CycleIn := { host := some (hostWord true 0x000 (1#1 ++ 0x07#7)), rxValid := true, rxData := 0x24, txReady := true }
    ({ sending19 with inputs := [.cycle c] } : State).inputs = .cycle c :: [] ∧
      c.host = some (hostWord true 0x000 (1#1 ++ 0x07#7)) ∧ c.rst = false ∧
      ¬ (c.txReady = true ∧ sendsUnwritten sending19 = true) ∧ ({ c with rst := true } : CycleIn).rst = true := by decide

theorem witness_HuntTakesOnlyTheFirstPreambleByte :
    start.rx.state = .hunt ∧ (0x24 : Byte) = start.cfg.pre1 ∧ (0x4D : Byte) ≠ start.cfg.pre1 := by decide

theorem witness_SecondPreambleByteStartsTheFrame :
    let s := rxIn .pre2
    s.rx.state = .pre2 ∧ (0x4D : Byte) = s.cfg.pre2 ∧ ((0x24 : Byte) ≠ s.cfg.pre2 ∧ (0x24 : Byte) = s.cfg.pre1) ∧
    ((0x41 : Byte) ≠ s.cfg.pre2 ∧ (0x41 : Byte) ≠ s.cfg.pre1) := by decide

theorem witness_DirectionAndCommandAreCapturedUnchecked : (rxIn .dir).rx.state = .dir ∧ (rxIn .cmd).rx.state = .cmd := by
  decide

theorem witness_LengthByteIsBounded :
    (rxIn .len).rx.state = .len ∧ (0x80 : Byte) ≤ (rxIn .len).cfg.maxPayload ∧ (rxIn .len).cfg.maxPayload < (0x81 : Byte) := by
  decide

theorem witness_PayloadByteIsStoredAtItsIndex : receiving.rx.state = .data ∧ receiving.rx.buf.wf = true := by decide

theorem witness_ChecksumByteDecidesTheFrame :
    let s : State := { held19 with rx := { held19.rx with state := .csum } }
    s.rx.state = .csum ∧ (0xDC : Byte) = s.rx.acc ∧ (0xDD : Byte) ≠ s.rx.acc := by decide

theorem witness_HeaderIsSentFieldByField :
    (txIn .pre1).tx.state = .pre1 ∧ (txIn .pre2).tx.state = .pre2 ∧ (txIn .dir).tx.state = .dir ∧
    (txIn .len).tx.state = .len ∧ (txIn .cmd).tx.state = .cmd := by decide

theorem witness_PayloadByteIsSentAndSummed :
    sending19.tx.state = .data ∧ sending19.tx.buf.read sending19.tx.idx.toNat = some 0x19 ∧
    (txIn .data).tx.state = .data ∧ (txIn .data).tx.buf.read (txIn .data).tx.idx.toNat = none := by decide

theorem witness_ChecksumByteIsSentAndKept : (txIn .csum).tx.state = .csum := by decide

theorem witness_HeldResponsesAreReadByTheirContracts :
    heldFix.rx.buf.holds [0, 1, 0, 0, 1, 2, 0, 0, 3, 4] ∧ [0, 1, 0, 0, 1, 2, 0, 0, 3, (4 : Byte)].length = heldFix.rx.len.toNat ∧
    held19.rx.buf.holds [0x19] ∧ [(0x19 : Byte)].length = held19.rx.len.toNat ∧
    (heldFix.rx.state = .hold ∧ heldFix.rx.cmd = 0xC5 ∧ heldFix.rx.len = 10) ∧
    (held19.rx.state = .hold ∧ held19.rx.cmd = 0xC4 ∧ held19.rx.len = 1) := by
  unfold Memory.holds
  decide

theorem witness_ResetTableHolds :
    ({ rst := true } : CycleIn).rst = true ∧ start.rx = { State.reset.rx with buf := start.rx.buf } ∧
    start.tx = { State.reset.tx with buf := start.tx.buf } ∧ start.err = 0 ∧ (0x00B : HostAddr) ≤ 0x00B ∧
    ((0x200 : HostAddr) ≤ 0x200 ∧ (0x2FF : HostAddr) ≤ 0x2FF) := by decide

theorem witness_HardResetIgnoresItsCycle :
    let c : CycleIn := { rst := true, host := some 0x40080, rxValid := true, rxData := 0x24, txReady := true }
    c.rst = true ∧ (∃ t, cycle c sending19 = .next t ∧ ∃ u, cycle lineNop t = .next u) ∧
      ∀ x ∈ [c, { rst := true }], x.rst = true := by
  refine ⟨rfl, ⟨_, rfl, _, rfl⟩, by decide⟩

theorem witness_StepKeepsTheInvariant :
    Machine.Inv { alone [.cycle (lineRx 0x24)] with cfg := { start.cfg with maxPayload := 0 } } ∧
    ∃ t, step { alone [.cycle (lineRx 0x24)] with cfg := { start.cfg with maxPayload := 0 } } = .next t := by
  refine ⟨⟨⟨rfl, ?_⟩, ⟨rfl, ?_⟩, trivial, ?_, trivial⟩, ⟨_, rfl⟩⟩ <;> simp [pulsesOk, alone, start, Parser.reset, Encoder.reset, Memory.read]

/-- The frame of command 0xC4 and payload 0x19 as inputs (R80). -/
def frame19 : List Input := [0x24, 0x4D, 0x3C, 0x01, 0xC4, 0x19, 0xDC].map fun b => .cycle (lineRx b)

/-- The state after `n` steps from reset in the build of the vectors meets `p`. -/
def reaches (ins : List Input) (n : Nat) (p : State → Bool) : Bool :=
  nextIs (Host.Core.run Sys2Proof.core n ({ State.reset with cfg := start.cfg, inputs := ins } : State)) p

theorem witness_ReachableStatesMeetTheSpecInvariants :
    reaches frame19 5 (fun t => t.rx.state == .data) = true ∧ reaches frame19 6 (fun t => t.rx.state == .csum) = true ∧
    reaches frame19 7 (fun t => t.rx.state == .hold) = true ∧
    reaches (([lineStart] ++ List.replicate 5 lineTxr).map .cycle) 6 (fun t => t.tx.state == .csum) = true := by decide

theorem witness_NoStepChangesTheParameters : ∃ t, step (alone [.cycle lineSrst]) = .next t := ⟨_, rfl⟩

theorem witness_StepStopsOnlyOnUnwrittenBytes :
    faultIs (step (alone [.cycle (lineRead 0x37F)])) (.readUnwritten 127) = true ∧
    faultIs (step { txIn .data with inputs := [.cycle lineTxr] }) (.sendUnwritten 0) = true := by decide

theorem witness_FlagsAreSticky :
    let s : State := { held19 with err := 0x1F }
    nextIs (cycle (lineWrite 0x002 0x10) s) (fun t => s.err.getLsbD 4 && !(t.err.getLsbD 4)) = true ∧
    nextIs (cycle lineFlush receiving) (fun t => t.rx.result != receiving.rx.result) = true := by decide

theorem witness_PulsesMarkTheFrameBoundaries :
    noReset (lineRx 0x4D) ∧ nextIs (cycle (lineRx 0x4D) (rxIn .pre2)) (fun t => t.rx.sofQ) = true ∧
    noReset lineFlush ∧ nextIs (cycle lineFlush receiving) (fun t => t.rx.eofQ) = true := by
  unfold noReset
  decide

theorem witness_HeldFrameIsStable :
    held19.rx.state = .hold ∧ (∀ c ∈ [lineRx 0x24, lineStart], frameStays c) ∧
    ∃ t, runCycles [lineRx 0x24, lineStart] held19 = .next t := by
  refine ⟨rfl, ?_, ⟨_, rfl⟩⟩
  unfold frameStays frameGoesOn noReset
  decide

theorem witness_OfferedByteIsStable :
    sending19.tx.state ≠ .idle ∧ (∀ c ∈ [lineWrite 0x008 0x05, lineStart], noReset c ∧ c.txReady = false) ∧
    ∃ t, runCycles [lineWrite 0x008 0x05, lineStart] sending19 = .next t := by
  refine ⟨by decide, ?_, ⟨_, rfl⟩⟩
  unfold noReset
  decide

theorem witness_EncoderInputsAreLockedWhileBusy :
    sending19.tx.state ≠ .idle ∧ noReset (joinTxr (lineWrite 0x37F 0x05)) ∧
    (∃ t, cycle (joinTxr (lineWrite 0x37F 0x05)) sending19 = .next t) ∧
    wordWrite (hostWord true 0x37F 0x05) = true ∧ wordAddr (hostWord true 0x37F 0x05) = 3#2 ++ (0x7F : Byte) ∧
    (0x7F : Byte) < sending19.cfg.maxPayload := by
  refine ⟨by decide, ?_, ⟨_, rfl⟩, by decide, by decide, by decide⟩
  unfold noReset
  decide

theorem witness_EnginesAreIndependent :
    let c1 : CycleIn := joinRx lineStart 0x24
    let c2 : CycleIn := { c1 with txReady := true }
    c1.rst = c2.rst ∧ c1.host = c2.host ∧ start.cfg = sending19.cfg ∧ (∃ t, cycle c1 start = .next t) ∧
    (∃ t, cycle c2 sending19 = .next t) ∧ rxOffer c1 = rxOffer c2 ∧ start.rx = sending19.rx ∧
    (c1.txReady = lineStart.txReady ∧ start.tx = held19.tx) :=
  ⟨rfl, rfl, rfl, ⟨_, rfl⟩, ⟨_, rfl⟩, rfl, rfl, rfl, rfl⟩

theorem witness_UnheldFrameIsInvisible :
    let s2 : State := { receiving with rx := { receiving.rx with dir := 7, len := 8, cmd := 9, acc := 1, buf := [(0, 5)] } }
    receiving.rx.state ≠ .hold ∧ s2.rx.state = receiving.rx.state ∧ s2.rx.result = receiving.rx.result ∧
    s2.rx.sofQ = receiving.rx.sofQ ∧ s2.rx.eofQ = receiving.rx.eofQ ∧ s2.tx = receiving.tx ∧ s2.err = receiving.err ∧
    s2.cfg = receiving.cfg ∧ s2.resets = receiving.resets := by decide

theorem witness_FlushedAndUntakenBytesHaveNoEffect :
    (joinRx lineFlush 0x05).rst = false ∧ (ctrlData (joinRx lineFlush 0x05)).getLsbD 1 = true ∧
    (lineRx 0x24).rst = false ∧ held19.rx.state = .hold := by decide

theorem witness_StartInTheChecksumCycleIsRefused :
    (txIn .csum).tx.state = .csum ∧ noReset (joinTxr lineStart) ∧ (ctrlData (joinTxr lineStart)).getLsbD 2 = true ∧
    (joinTxr lineStart).txReady = true ∧
    nextIs (cycle (joinTxr lineStart) (txIn .csum)) (fun t => decide (t.tx.len ≤ t.cfg.maxPayload)) = true := by
  unfold noReset
  decide

theorem witness_LoadLoadsTheFrame :
    start.tx.state = .idle ∧ payload.length ≤ start.cfg.maxPayload.toNat ∧
    (List.replicate 128 (0xFF : Byte)).length ≤ start.cfg.maxPayload.toNat :=
  ⟨rfl, by decide, by rw [List.length_replicate]; decide⟩

theorem witness_EncoderEmitsExactlyTheFrame :
    let cs := lineNop :: List.replicate 7 lineTxr
    loaded19.tx.state = .idle ∧ loaded19.tx.len = BitVec.ofNat 8 payload.length ∧
    payload.length ≤ loaded19.cfg.maxPayload.toNat ∧ loaded19.tx.buf.holds payload ∧ noReset lineStart ∧
    (ctrlData lineStart).getLsbD 2 = true ∧ (∀ c ∈ cs, noReset c) ∧ readyCycles cs = 6 + payload.length ∧
    cs.getLast?.map CycleIn.txReady = some true ∧ nextIs (runCycles (lineStart :: cs) loaded19) (fun _ => true) = true := by
  refine ⟨rfl, rfl, by decide, holds_payload, ?_, by decide, ?_, by decide, by decide, rfl⟩ <;> unfold noReset <;> decide

theorem witness_FrameTakesSixPlusLengthCycles :
    payload.length ≤ loaded19.cfg.maxPayload.toNat ∧ 7 ≤ 6 + payload.length ∧ loaded19.tx.state = .idle ∧
    loaded19.tx.len = BitVec.ofNat 8 payload.length ∧ loaded19.tx.buf.holds payload ∧ loaded19.rx.state = .hunt :=
  ⟨by decide, by decide, rfl, rfl, holds_payload, rfl⟩

theorem witness_FrameVerdictIsTheChecksum :
    let cs (k : Byte) : List CycleIn := feed [0x24, 0x4D, 0x3C] ++ [lineNop] ++ feed [0x01, 0xC4, 0x19, k]
    start.rx.state = .hunt ∧ payload.length ≤ start.cfg.maxPayload.toNat ∧ (∀ x ∈ cs 0xDC ++ cs 0xDD, frameGoesOn x) ∧
    offered (cs 0xDC) = [start.cfg.pre1, start.cfg.pre2] ++ [0x3C, BitVec.ofNat 8 payload.length, 0xC4] ++ payload ++ [0xDC] ∧
    (cs 0xDC).getLast?.map CycleIn.rxValid = some true ∧
    nextIs (runCycles (cs 0xDC) start) (fun t => t.rx.state == .hold) = true ∧
    nextIs (runCycles (cs 0xDD) start) (fun t => t.rx.state != .hold) = true ∧
    (rxIn .pre2).rx.state = .pre2 ∧ nextIs (runCycles ((cs 0xDC).drop 1) (rxIn .pre2)) (fun t => t.rx.state == .hold) = true := by
  unfold frameGoesOn noReset
  decide

theorem witness_ParserResynchronizesAfterGarbage :
    start.cfg.pre1 ≠ start.cfg.pre2 ∧ start.rx.state = .hunt ∧ payload.length ≤ start.cfg.maxPayload.toNat ∧
    (∀ i, ¬ ([0x4D, 0x24, (0x24 : Byte)][i]? = some start.cfg.pre1 ∧ [0x4D, 0x24, (0x24 : Byte)][i + 1]? = some start.cfg.pre2)) := by
  refine ⟨by decide, rfl, by decide, fun i => ?_⟩
  match i with
  | 0 => decide
  | 1 => decide
  | 2 => decide
  | n + 3 => simp

theorem witness_SentFrameIsReceived :
    loaded19.tx.state = .idle ∧ loaded19.tx.len = BitVec.ofNat 8 payload.length ∧
    payload.length ≤ loaded19.cfg.maxPayload.toNat ∧ loaded19.tx.buf.holds payload ∧
    (∀ c ∈ List.replicate 7 lineTxr, noReset c) ∧ readyCycles (List.replicate 7 lineTxr) = 6 + payload.length ∧
    nextIs (runCycles (lineStart :: List.replicate 7 lineTxr) loaded19) (fun _ => true) = true ∧
    start.rx.state = .hunt ∧ start.cfg.pre1 = loaded19.cfg.pre1 ∧ start.cfg.pre2 = loaded19.cfg.pre2 ∧
    payload.length ≤ start.cfg.maxPayload.toNat := by
  refine ⟨rfl, rfl, by decide, holds_payload, ?_, by decide, by decide, rfl, rfl, rfl, by decide⟩
  unfold noReset
  decide

theorem witness_SingleBitCorruptionIsRejected :
    start.rx.state = .hunt ∧ payload.length ≤ start.cfg.maxPayload.toNat ∧ 2 < payload.length + 2 ∧ 7 < 8 := by decide

theorem witness_ChecksumLaws : 2 < payload.length + 2 ∧ 7 < 8 := by decide

end Sys2Proof.Tests
end

section
/-! PROOFS. The family 10_state.md: what one cycle can do to each engine's registers, and from that the invariant (R28,
R29, R33, R38, R39) and the frame boundaries (R164). -/

namespace Sys2Proof.Machine

variable {cfg : Config.Params} {r r' : Parser} {t t' : Encoder}

/-! ## What each engine state implies, case by case -/

theorem parserStateOk_hunt (hs : r.state = .hunt) : parserStateOk cfg r := by
  simp only [parserStateOk, hs]

theorem parserStateOk_pre2 (hs : r.state = .pre2) : parserStateOk cfg r := by
  simp only [parserStateOk, hs]

theorem parserStateOk_dir (hs : r.state = .dir) : parserStateOk cfg r ↔ r.acc = 0 ∧ r.idx = 0 := by
  simp only [parserStateOk, hs]

theorem parserStateOk_len (hs : r.state = .len) : parserStateOk cfg r ↔ r.acc = 0 ∧ r.idx = 0 := by
  simp only [parserStateOk, hs]

theorem parserStateOk_cmd (hs : r.state = .cmd) :
    parserStateOk cfg r ↔ r.len ≤ cfg.maxPayload ∧ r.acc = r.len := by
  simp only [parserStateOk, hs]

theorem parserStateOk_data (hs : r.state = .data) : parserStateOk cfg r ↔
    r.len ≤ cfg.maxPayload ∧ r.idx < r.len ∧ sumSoFar r.buf r.acc r.len r.cmd r.idx := by
  simp only [parserStateOk, hs]

theorem parserStateOk_csum (hs : r.state = .csum) : parserStateOk cfg r ↔
    r.len ≤ cfg.maxPayload ∧ r.idx = r.len ∧ sumSoFar r.buf r.acc r.len r.cmd r.idx := by
  simp only [parserStateOk, hs]

theorem parserStateOk_hold (hs : r.state = .hold) : parserStateOk cfg r ↔
    r.len ≤ cfg.maxPayload ∧ r.idx = r.len ∧ sumSoFar r.buf r.acc r.len r.cmd r.idx ∧ r.result = .ok ∧
      r.csum = r.acc := by
  simp only [parserStateOk, hs]

/-- A frame runs from DIR to CSUM (R164). -/
theorem inFrame_inside
    (hs : r.state = .dir ∨ r.state = .len ∨ r.state = .cmd ∨ r.state = .data ∨ r.state = .csum) : inFrame r = true := by
  rcases hs with hs | hs | hs | hs | hs <;> simp only [inFrame, hs]

theorem inFrame_outside (hs : r.state = .hunt ∨ r.state = .pre2 ∨ r.state = .hold) : inFrame r = false := by
  rcases hs with hs | hs | hs <;> simp only [inFrame, hs]

theorem inFrame_congr (hs : r'.state = r.state) : inFrame r' = inFrame r := by
  simp only [inFrame, hs]

theorem encoderStateOk_idle (hs : t.state = .idle) : encoderStateOk cfg t := by
  simp only [encoderStateOk, hs]

/-- The encoder states before LEN is sent. -/
theorem encoderStateOk_header (hs : t.state = .pre1 ∨ t.state = .pre2 ∨ t.state = .dir ∨ t.state = .len) :
    encoderStateOk cfg t ↔ t.len ≤ cfg.maxPayload ∧ t.acc = 0 ∧ t.idx = 0 := by
  rcases hs with hs | hs | hs | hs <;> simp only [encoderStateOk, hs]

theorem encoderStateOk_cmd (hs : t.state = .cmd) :
    encoderStateOk cfg t ↔ t.len ≤ cfg.maxPayload ∧ t.acc = t.len ∧ t.idx = 0 := by
  simp only [encoderStateOk, hs]

theorem encoderStateOk_data (hs : t.state = .data) : encoderStateOk cfg t ↔
    t.len ≤ cfg.maxPayload ∧ t.idx < t.len ∧ sumSoFar t.buf t.acc t.len t.cmd t.idx := by
  simp only [encoderStateOk, hs]

theorem encoderStateOk_csum (hs : t.state = .csum) : encoderStateOk cfg t ↔
    t.len ≤ cfg.maxPayload ∧ t.idx = t.len ∧ sumSoFar t.buf t.acc t.len t.cmd t.idx := by
  simp only [encoderStateOk, hs]

theorem bufferOk_nil (cfg : Config.Params) : bufferOk cfg [] :=
  ⟨Memory.wf_nil, fun i h => by simp at h⟩

/-- Past a payload index come the next index or the end of the payload, with no overflow. -/
theorem idx_succ_lt {i n : Byte} (h : i < n) (hne : i + 1 ≠ n) : i + 1 < n := by
  bv_omega

/-! ## What a cycle without a reset can do to the parser -/

/-- The parser's registers after a cycle without a reset: one constructor per way the cycle can go (R151 to R161). The
bytes of the preamble scan are left open, every other guard is kept. -/
inductive ParserMove (cfg : Config.Params) (r : Parser) : Parser → Prop
  /-- No byte, or one that leaves the scan where it is. -/
  | stay : ParserMove cfg r (clearPulses r)
  /-- Back to HUNT from outside a frame: RX_ACK, RX_FLUSH, or a failed scan (R153, R160, R161). -/
  | drop (hs : inFrame r = false) : ParserMove cfg r { clearPulses r with state := .hunt }
  /-- RX_FLUSH in a frame (R161). -/
  | abort (hs : inFrame r = true) :
      ParserMove cfg r { clearPulses r with state := .hunt, result := .aborted, eofQ := true }
  /-- A candidate first preamble byte (R152, R153). -/
  | scan (hs : r.state = .hunt ∨ r.state = .pre2) : ParserMove cfg r { clearPulses r with state := .pre2 }
  /-- The second preamble byte (R153). -/
  | start (hs : r.state = .pre2) :
      ParserMove cfg r { clearPulses r with state := .dir, acc := 0, idx := 0, sofQ := true }
  /-- R154. -/
  | direction (b : Byte) (hs : r.state = .dir) : ParserMove cfg r { clearPulses r with dir := b, state := .len }
  /-- R155, within the capacity. -/
  | length (b : Byte) (hs : r.state = .len) (hb : b ≤ cfg.maxPayload) :
      ParserMove cfg r { clearPulses r with len := b, acc := r.acc ^^^ b, state := .cmd }
  /-- R155, beyond the capacity. -/
  | overflow (b : Byte) (hs : r.state = .len) (hb : cfg.maxPayload < b) :
      ParserMove cfg r { clearPulses r with
        len := b, acc := r.acc ^^^ b, state := .hunt, result := .lenOverflow, eofQ := true }
  /-- R156. -/
  | command (b : Byte) (hs : r.state = .cmd) :
      ParserMove cfg r { clearPulses r with
        cmd := b, acc := r.acc ^^^ b, idx := 0, state := if r.len = 0 then .csum else .data }
  /-- R157. -/
  | payload (b : Byte) (hs : r.state = .data) :
      ParserMove cfg r { clearPulses r with
        buf := r.buf.write r.idx.toNat b, acc := r.acc ^^^ b, idx := r.idx + 1
        state := if r.idx + 1 = r.len then .csum else .data }
  /-- R158, a match. -/
  | accept (hs : r.state = .csum) :
      ParserMove cfg r { clearPulses r with csum := r.acc, state := .hold, result := .ok, eofQ := true }
  /-- R158, a mismatch. -/
  | reject (b : Byte) (hs : r.state = .csum) (hb : b ≠ r.acc) :
      ParserMove cfg r { clearPulses r with csum := b, state := .hunt, result := .csumMismatch, eofQ := true }

theorem rxHunt_move (b : Byte) (hs : r.state = .hunt) :
    ParserMove cfg r (rxHunt cfg b { rx := clearPulses r }).rx := by
  unfold rxHunt
  split
  · exact .scan (.inl hs)
  · exact .stay

theorem rxPre2_move (b : Byte) (hs : r.state = .pre2) :
    ParserMove cfg r (rxPre2 cfg b { rx := clearPulses r }).rx := by
  unfold rxPre2
  split
  · exact .start hs
  · split
    · exact .scan (.inr hs)
    · exact .drop (inFrame_outside (by simp [hs]))

theorem rxLen_move (b : Byte) (hs : r.state = .len) :
    ParserMove cfg r (rxLen cfg b r { rx := clearPulses r }).rx := by
  simp only [rxLen]
  split
  · next hb => exact .overflow b hs hb
  · next hb => exact .length b hs (BitVec.not_lt.1 hb)

theorem rxCsum_move (b : Byte) (hs : r.state = .csum) :
    ParserMove cfg r (rxCsum b r { rx := clearPulses r }).rx := by
  simp only [rxCsum]
  split
  · next hb =>
    subst hb
    exact .accept hs
  · next hb => exact .reject b hs hb

/-- The arm of an accepted byte is a move. -/
theorem rxArm_move (cfg : Config.Params) (b : Byte) (r : Parser) :
    ParserMove cfg r (rxArm cfg b r { rx := clearPulses r }).rx := by
  unfold rxArm
  split
  · next hs => exact rxHunt_move b hs
  · next hs => exact rxPre2_move b hs
  · next hs => exact .direction b hs
  · next hs => exact rxLen_move b hs
  · next hs => exact .command b hs
  · next hs => exact .payload b hs
  · next hs => exact rxCsum_move b hs
  · exact .stay

/-- The receive part of every cycle is a move. -/
theorem rxNext_move (cfg : Config.Params) (r : Parser) (rxIn : Option Byte) (ack flush : Bool) :
    ParserMove cfg r (rxNext cfg r rxIn ack flush).rx := by
  rcases rxNext_cases cfg r rxIn ack flush with ⟨-, h⟩ | ⟨-, -, hs, h⟩ | ⟨-, -, b, -, h⟩ | ⟨-, -, -, h⟩ <;> rw [h]
  · rw [rxFlush_eq r _ rfl]
    split
    · next hf => exact .abort hf
    · next hf => exact .drop (by simpa using hf)
  · exact .drop (inFrame_outside (by simp [hs]))
  · exact rxArm_move cfg b r
  · exact .stay

/-! ## What a move of the parser keeps -/

/-- A move keeps the buffer canonical: a payload byte is stored below the length, so within the capacity (R29, R33). -/
theorem ParserMove.keeps_bufferOk (hm : ParserMove cfg r r') (hb : bufferOk cfg r.buf) (h : parserStateOk cfg r) :
    bufferOk cfg r'.buf := by
  cases hm with
  | payload b hs =>
    obtain ⟨hlen, hidx, -⟩ := (parserStateOk_data hs).1 h
    exact bufferOk_write hb (Nat.lt_of_lt_of_le hidx hlen)
  | _ => exact hb

/-- A move keeps what each parser state implies of the other registers (R28, R29, R33). -/
theorem ParserMove.keeps_parserStateOk (hm : ParserMove cfg r r') (h : parserStateOk cfg r) : parserStateOk cfg r' := by
  cases hm with
  | stay => exact h
  | drop | abort | overflow | reject => exact parserStateOk_hunt rfl
  | scan => exact parserStateOk_pre2 rfl
  | start => exact (parserStateOk_dir rfl).2 ⟨rfl, rfl⟩
  | direction b hs => exact (parserStateOk_len rfl).2 ((parserStateOk_dir hs).1 h)
  | length b hs hb =>
    obtain ⟨hacc, -⟩ := (parserStateOk_len hs).1 h
    exact (parserStateOk_cmd rfl).2 ⟨hb, by simp [hacc]⟩
  | command b hs =>
    obtain ⟨hlen, hacc⟩ := (parserStateOk_cmd hs).1 h
    have hsum : sumSoFar r.buf (r.acc ^^^ b) r.len b 0 := hacc ▸ sumSoFar_zero r.buf r.len b
    by_cases h0 : r.len = 0
    · exact (parserStateOk_csum (if_pos h0)).2 ⟨hlen, h0.symm, hsum⟩
    · exact (parserStateOk_data (if_neg h0)).2 ⟨hlen, (BitVec.pos_iff_ne_zero _).2 h0, hsum⟩
  | payload b hs =>
    obtain ⟨hlen, hidx, hsum⟩ := (parserStateOk_data hs).1 h
    have hsum' : sumSoFar (r.buf.write r.idx.toNat b) (r.acc ^^^ b) r.len r.cmd (r.idx + 1) :=
      sumSoFar_snoc hsum hidx fun p hp hold => hp ▸ Memory.holds_write hold
    by_cases hl : r.idx + 1 = r.len
    · exact (parserStateOk_csum (if_pos hl)).2 ⟨hlen, hl, hsum'⟩
    · exact (parserStateOk_data (if_neg hl)).2 ⟨hlen, idx_succ_lt hidx hl, hsum'⟩
  | accept hs =>
    obtain ⟨hlen, hidx, hsum⟩ := (parserStateOk_csum hs).1 h
    exact (parserStateOk_hold rfl).2 ⟨hlen, hidx, hsum, rfl, rfl⟩

/-- After a move the pulses stand only where a frame has just begun or ended (R31, R32). -/
theorem ParserMove.pulsesOk (hm : ParserMove cfg r r') : pulsesOk r' := by
  cases hm <;> simp [Machine.pulsesOk]

/-- The pulses of a move are the frame boundaries, and an end has a result (R31, R32, R164). -/
theorem ParserMove.marks_boundaries (hm : ParserMove cfg r r') :
    r'.sofQ = (!(inFrame r) && inFrame r') ∧ r'.eofQ = (inFrame r && !(inFrame r')) ∧
      (r'.eofQ = true → r'.result ≠ .none ∧ (r'.result = .ok ↔ r'.state = .hold)) := by
  cases hm with
  | stay => simp [inFrame_congr (clearPulses_state r)]
  | drop hs | abort hs => simp [hs, inFrame_outside]
  | scan hs => simp [inFrame_outside, or_assoc.1 (Or.inl hs)]
  | start hs | direction _ hs | length _ hs | overflow _ hs | accept hs | reject _ hs =>
    simp [inFrame_inside, inFrame_outside, hs]
  | command b hs => by_cases h0 : r.len = 0#8 <;> simp [inFrame_inside, hs, h0]
  | payload b hs => by_cases hl : r.idx + 1#8 = r.len <;> simp [inFrame_inside, hs, hl]

/-! ## What a cycle without a reset can do to the encoder -/

/-- The encoder's registers after a cycle without a reset: one constructor per way the cycle can go (R130 to R139,
R143). -/
inductive EncoderMove (cfg : Config.Params) (t : Encoder) : Encoder → Prop
  /-- Nothing sent, and no command or write that takes effect. -/
  | stay : EncoderMove cfg t t
  /-- TX_START (R132). -/
  | start (hs : t.state = .idle) (hl : t.len ≤ cfg.maxPayload) :
      EncoderMove cfg t { t with state := .pre1, acc := 0, idx := 0 }
  /-- A write to TX_LEN (R203). -/
  | setLen (d : Byte) (hs : t.state = .idle) : EncoderMove cfg t { t with len := d }
  /-- A write to TX_CMD (R205). -/
  | setCmd (d : Byte) (hs : t.state = .idle) : EncoderMove cfg t { t with cmd := d }
  /-- A write to the TX window (R214). -/
  | setBuf (i d : Byte) (hs : t.state = .idle) (hi : i < cfg.maxPayload) :
      EncoderMove cfg t { t with buf := t.buf.write i.toNat d }
  /-- R133. -/
  | sendPre1 (hs : t.state = .pre1) : EncoderMove cfg t { t with state := .pre2 }
  /-- R134. -/
  | sendPre2 (hs : t.state = .pre2) : EncoderMove cfg t { t with state := .dir }
  /-- R135. -/
  | sendDir (hs : t.state = .dir) : EncoderMove cfg t { t with state := .len }
  /-- R136. -/
  | sendLen (hs : t.state = .len) : EncoderMove cfg t { t with acc := t.acc ^^^ t.len, state := .cmd }
  /-- R137. -/
  | sendCmd (hs : t.state = .cmd) :
      EncoderMove cfg t { t with acc := t.acc ^^^ t.cmd, state := if t.len = 0 then .csum else .data }
  /-- R138: the byte sent is written, since sending another one is a fault (U3). -/
  | sendData (b : Byte) (hs : t.state = .data) (hb : t.buf.read t.idx.toNat = some b) :
      EncoderMove cfg t { t with
        acc := t.acc ^^^ b, idx := t.idx + 1, state := if t.idx + 1 = t.len then .csum else .data }
  /-- R139. -/
  | sendCsum (hs : t.state = .csum) : EncoderMove cfg t { t with csum := t.acc, state := .idle }

/-- The arm of a transferred byte is a move, as long as a payload byte is the stored one. -/
theorem txArm_move (cfg : Config.Params) {b : Byte} (hb : t.state = .data → t.buf.read t.idx.toNat = some b) :
    EncoderMove cfg t (txArm b t { tx := t }).tx := by
  unfold txArm
  split
  · exact .stay
  · next hs => exact .sendPre1 hs
  · next hs => exact .sendPre2 hs
  · next hs => exact .sendDir hs
  · next hs => exact .sendLen hs
  · next hs => exact .sendCmd hs
  · next hs => exact .sendData b hs (hb hs)
  · next hs => exact .sendCsum hs

/-- TX_START starts a frame or is refused (R132). -/
theorem txStart_move (cfg : Config.Params) (hs : t.state = .idle) :
    EncoderMove cfg t (txStart cfg t { tx := t }).tx := by
  simp only [txStart, hs, ne_eq, not_true_eq_false, if_false]
  split
  · exact .stay
  · next hl => exact .start hs (BitVec.not_lt.1 hl)

/-- A host write to an idle encoder stores one input, or is ignored beyond the capacity (R203, R205, R214). -/
theorem txWrite_move (cfg : Config.Params) (w : TxWrite) (hs : t.state = .idle) :
    EncoderMove cfg t (txWrite cfg w t { tx := t }).tx := by
  cases w with
  | len d =>
    simp only [txWrite, if_pos hs]
    exact .setLen d hs
  | cmd d =>
    simp only [txWrite, if_pos hs]
    exact .setCmd d hs
  | buf i d =>
    simp only [txWrite, if_pos hs]
    split
    · exact .stay
    · next hi => exact .setBuf i d hs (not_not.1 hi)

/-- The transmit part of a cycle is a move, where a payload byte sent is the stored one and TX_START comes with no register
write. -/
theorem txNext_move (cfg : Config.Params) {sent : Option Byte} {start : Bool} {wr : Option TxWrite}
    (hidle : t.state = .idle → sent = none)
    (hsent : ∀ b, sent = some b → t.state = .data → t.buf.read t.idx.toNat = some b)
    (hwr : start = true → wr = none) : EncoderMove cfg t (txNext cfg t sent start wr).tx := by
  by_cases hs : t.state = .idle
  · rw [hidle hs, txNext_idle]
    cases start with
    | true => simpa only [hwr rfl, if_true] using txStart_move cfg hs
    | false =>
      cases wr with
      | none => exact .stay
      | some w => exact txWrite_move cfg w hs
  · rw [txNext_busy cfg t sent start wr hs]
    cases sent with
    | none => exact .stay
    | some b => exact txArm_move cfg (hsent b rfl)

/-! ## What a move of the encoder keeps -/

/-- A move keeps the buffer canonical: the host writes it only within the capacity (R214). -/
theorem EncoderMove.keeps_bufferOk (hm : EncoderMove cfg t t') (hb : bufferOk cfg t.buf) : bufferOk cfg t'.buf := by
  cases hm with
  | setBuf i d hs hi => exact bufferOk_write hb hi
  | _ => exact hb

/-- A move keeps what each encoder state implies of the other registers (R38, R39, R132). -/
theorem EncoderMove.keeps_encoderStateOk (hm : EncoderMove cfg t t') (h : encoderStateOk cfg t) :
    encoderStateOk cfg t' := by
  cases hm with
  | stay => exact h
  | start hs hl => exact (encoderStateOk_header (.inl rfl)).2 ⟨hl, rfl, rfl⟩
  | setLen d hs | setCmd d hs | setBuf i d hs => exact encoderStateOk_idle hs
  | sendPre1 hs | sendPre2 hs | sendDir hs =>
    have h := (encoderStateOk_header (t := t) (by simp [hs])).1 h
    exact (encoderStateOk_header (by simp)).2 h
  | sendLen hs =>
    obtain ⟨hlen, hacc, hidx⟩ := (encoderStateOk_header (by simp [hs])).1 h
    exact (encoderStateOk_cmd rfl).2 ⟨hlen, by simp [hacc], hidx⟩
  | sendCmd hs =>
    obtain ⟨hlen, hacc, hidx⟩ := (encoderStateOk_cmd hs).1 h
    have hsum : sumSoFar t.buf (t.acc ^^^ t.cmd) t.len t.cmd t.idx := by
      rw [hacc, hidx]
      exact sumSoFar_zero t.buf t.len t.cmd
    by_cases h0 : t.len = 0
    · exact (encoderStateOk_csum (if_pos h0)).2 ⟨hlen, hidx.trans h0.symm, hsum⟩
    · have hpos : t.idx < t.len := by
        rw [hidx]
        exact (BitVec.pos_iff_ne_zero _).2 h0
      exact (encoderStateOk_data (if_neg h0)).2 ⟨hlen, hpos, hsum⟩
  | sendData b hs hb =>
    obtain ⟨hlen, hidx, hsum⟩ := (encoderStateOk_data hs).1 h
    have hsum' : sumSoFar t.buf (t.acc ^^^ b) t.len t.cmd (t.idx + 1) :=
      sumSoFar_snoc hsum hidx fun p hp hold => Memory.holds_snoc hold (hp ▸ hb)
    by_cases hl : t.idx + 1 = t.len
    · exact (encoderStateOk_csum (if_pos hl)).2 ⟨hlen, hl, hsum'⟩
    · exact (encoderStateOk_data (if_neg hl)).2 ⟨hlen, idx_succ_lt hidx hl, hsum'⟩
  | sendCsum hs => exact encoderStateOk_idle rfl

/-! ## The cycle -/

/-- A host word is one transaction: a cycle with CTRL data writes no encoder input (R191). -/
theorem hostTransaction_wr_none {c : CycleIn} (s : State) (h : ctrlData c ≠ 0) :
    (hostTransaction c.host s).wr = none := by
  unfold ctrlData at h
  cases hc : c.host with
  | none => rfl
  | some w =>
    simp only [hc, ne_eq, ite_eq_right_iff, not_forall] at h
    obtain ⟨⟨hw, ha⟩, -⟩ := h
    simp [hostTransaction_word, hw, ha, memWrite]

/-- Where a transfer is no fault, the payload byte offered is the stored one (R131, U3). -/
theorem read_txByte {s : State} (hs : s.tx.state = .data) (hsend : sendsUnwritten s = false) :
    s.tx.buf.read s.tx.idx.toNat = some (txByte s) := by
  simp only [txByte, hs, txBufByte]
  cases hr : s.tx.buf.read s.tx.idx.toNat with
  | none => simp [sendsUnwritten, hs, hr] at hsend
  | some b => rfl

/-- The parser moves in every cycle without a reset. -/
theorem cycle_parserMove {c : CycleIn} {s s' : State} (hn : noReset c) (h : cycle c s = .next s') :
    ParserMove s.cfg s.rx s'.rx := by
  obtain ⟨-, rd, -, rfl⟩ := cycle_noReset hn h
  rw [advance_rx]
  exact rxNext_move _ _ _ _ _

/-- The encoder moves in every cycle without a reset. -/
theorem cycle_encoderMove {c : CycleIn} {s s' : State} (hn : noReset c) (h : cycle c s = .next s') :
    EncoderMove s.cfg s.tx s'.tx := by
  obtain ⟨hsend, rd, -, rfl⟩ := cycle_noReset hn h
  rw [advance_tx]
  refine txNext_move s.cfg (fun hs => if_neg fun hb => hb.1 hs) (fun b hb hs => ?_) (fun hstart => ?_)
  · split at hb
    · next hgo =>
      cases hb
      exact read_txByte hs (by simpa [hgo.2] using hsend)
    · cases hb
  · refine hostTransaction_wr_none s fun h0 => ?_
    simp [h0] at hstart

/-- No cycle changes the build parameters (R296). -/
theorem cycle_cfg {c : CycleIn} {s s' : State} (h : cycle c s = .next s') : s'.cfg = s.cfg := by
  rcases cycle_next h with ⟨-, rfl⟩ | ⟨-, -, rd, -, rfl⟩ | ⟨-, -, rd, -, rfl⟩ <;> rfl

/-! ## The invariant -/

/-- The invariant speaks of the registers of both engines, and of the parameters, alone. -/
theorem Inv.congr {s s' : State} (h : Inv s) (hrx : s'.rx = s.rx) (htx : s'.tx = s.tx) (hcfg : s'.cfg = s.cfg) :
    Inv s' := by
  unfold Inv
  rw [hrx, htx, hcfg]
  exact h

/-- Engines at their reset values meet the invariant with any buffers that do (R291, R293). -/
theorem inv_of_reset {s : State} {m n : Memory} (hrx : s.rx = { Parser.reset with buf := m })
    (htx : s.tx = { Encoder.reset with buf := n }) (hm : bufferOk s.cfg m) (hn : bufferOk s.cfg n) : Inv s := by
  unfold Inv
  rw [hrx, htx]
  exact ⟨hm, hn, parserStateOk_hunt rfl, by simp [pulsesOk], encoderStateOk_idle rfl⟩

/-- Every cycle keeps the invariant: both resets establish it, and any other cycle moves the two engines. -/
theorem cycle_keeps_inv {c : CycleIn} {s s' : State} (hi : Inv s) (h : cycle c s = .next s') : Inv s' := by
  obtain ⟨hrb, htb, hr, -, ht⟩ := hi
  rcases cycle_next h with ⟨-, rfl⟩ | ⟨-, -, rd, -, rfl⟩ | ⟨hn, -, -⟩
  · exact inv_of_reset rfl rfl (bufferOk_nil _) (bufferOk_nil _)
  · exact inv_of_reset rfl rfl hrb htb
  · have hrx := cycle_parserMove hn h
    have htx := cycle_encoderMove hn h
    unfold Inv
    rw [cycle_cfg h]
    exact ⟨hrx.keeps_bufferOk hrb hr, htx.keeps_bufferOk htb, hrx.keeps_parserStateOk hr, hrx.pulsesOk,
      htx.keeps_encoderStateOk ht⟩

/-- A classification answers a state that differs in its report alone (log 11). -/
theorem classify_next (c : Byte) (s : State) : ∃ b p, classify c s = .next (classified b p s) := by
  unfold classify
  split
  · next i hd =>
    unfold decodeWire at hd
    split at hd <;> cases hd <;> exact ⟨_, _, rfl⟩
  · exact ⟨c, none, rfl⟩

/-- A step is a cycle or a classification, of the state with its input taken off. -/
theorem step_cases {s s' : State} (h : step s = .next s') :
    ∃ ins, (∃ c, cycle c { s with inputs := ins } = .next s') ∨
      (∃ b p, s' = classified b p { s with inputs := ins }) := by
  unfold step at h
  split at h
  · exact ⟨s.inputs, .inl ⟨_, h⟩⟩
  · exact ⟨_, .inl ⟨_, h⟩⟩
  · next c rest _ =>
    obtain ⟨b, p, hp⟩ := classify_next c { s with inputs := rest }
    exact ⟨rest, .inr ⟨b, p, (Host.Outcome.next.inj (hp.symm.trans h)).symm⟩⟩

/-- Every step keeps the invariant; taking an input off and classifying do not touch the registers. -/
theorem step_keeps_inv {s s' : State} (hi : Inv s) (h : step s = .next s') : Inv s' := by
  obtain ⟨ins, ⟨c, hc⟩ | ⟨b, p, rfl⟩⟩ := step_cases h
  · exact cycle_keeps_inv (hi.congr (s' := { s with inputs := ins }) rfl rfl rfl) hc
  · exact hi.congr rfl rfl rfl

/-- The reset state of every build meets the invariant (R291). -/
theorem reset_inv (cfg : Config.Params) (ins : List Input) : Inv { State.reset with cfg := cfg, inputs := ins } :=
  inv_of_reset rfl rfl (bufferOk_nil _) (bufferOk_nil _)

/-- The first step of a run that answers a next state. -/
theorem run_succ_next {M : Host.Core} {n : Nat} {s s' : M.State} (h : M.run (n + 1) s = .next s') :
    ∃ u, M.step s = .next u ∧ M.run n u = .next s' := by
  unfold Host.Core.run at h
  split at h
  · next u hu => exact ⟨u, hu, h⟩
  · cases h
  · cases h

/-- What every step keeps holds after any number of them. -/
theorem run_keeps {M : Host.Core} {P : M.State → Prop} (hstep : ∀ s s', P s → M.step s = .next s' → P s') {n : Nat}
    {s s' : M.State} (hs : P s) (h : M.run n s = .next s') : P s' := by
  induction n generalizing s with
  | zero =>
    cases h
    exact hs
  | succ n ih =>
    obtain ⟨u, hu, h⟩ := run_succ_next h
    exact ih (hstep s u hs hu) h

/-! ## The statements -/

/-- Settles O38: the engines are at their reset values, with empty buffers. -/
theorem resetMeetsTheInvariant : Obligations.ResetMeetsTheInvariant := reset_inv

/-- Settles O39: a step is a cycle or a classification, and a cycle is a reset or a move of each engine. -/
theorem stepKeepsTheInvariant : Obligations.StepKeepsTheInvariant := fun _ _ => step_keeps_inv

/-- Settles O40: the invariant holds in every reachable state, and its cases are the spec's. -/
theorem reachableStatesMeetTheSpecInvariants : Obligations.ReachableStatesMeetTheSpecInvariants := by
  intro cfg ins n t hrun
  obtain ⟨-, -, hr, -, ht⟩ : Inv t := 
    run_keeps (M := Sys2Proof.core) (fun _ _ => step_keeps_inv) (reset_inv cfg ins) hrun
  refine ⟨fun hs => ?_, fun hs => ?_, fun hs => ?_, fun hs => ?_, fun hs => ?_⟩
  · obtain ⟨hlen, hidx, -, hres, hcsum⟩ := (parserStateOk_hold hs).1 hr
    exact ⟨hres, hlen, hidx, hcsum⟩
  · obtain ⟨hlen, hidx, -⟩ := (parserStateOk_data hs).1 hr
    exact ⟨by bv_omega, hlen, hidx⟩
  · rcases hs with hs | hs | hs
    · exact ((parserStateOk_cmd hs).1 hr).1
    · exact ((parserStateOk_data hs).1 hr).1
    · exact ((parserStateOk_csum hs).1 hr).1
  · obtain ⟨hidx, p, hp, hbuf, hacc⟩ : t.rx.idx = t.rx.len ∧
        sumSoFar t.rx.buf t.rx.acc t.rx.len t.rx.cmd t.rx.idx := by
      rcases hs with hs | hs
      · exact ((parserStateOk_csum hs).1 hr).2
      · obtain ⟨-, hidx, hsum, -⟩ := (parserStateOk_hold hs).1 hr
        exact ⟨hidx, hsum⟩
    exact ⟨p, hidx ▸ hp, hbuf, hacc⟩
  · obtain ⟨-, hidx, p, hp, hbuf, hacc⟩ := (encoderStateOk_csum hs).1 ht
    exact ⟨p, hidx ▸ hp, hbuf, hacc⟩

/-- Settles O44: a cycle without a reset is a move of the parser, and every move marks its boundaries. -/
theorem pulsesMarkTheFrameBoundaries : Obligations.PulsesMarkTheFrameBoundaries :=
  fun _ _ _ hn h => (cycle_parserMove hn h).marks_boundaries

end Sys2Proof.Machine
end

section
/-! PROOFS. The family 20_memory.md: a held frame stays as it is until it is released (R76), the encoder's inputs are locked
while it is busy (R143, R298), and a frame that is not held is masked everywhere (R62, R165). -/

namespace Sys2Proof.Machine

variable {cfg : Config.Params} {r r' : Parser} {t t' : Encoder} {s s' : State} {c : CycleIn}

/-! ## The RX window -/

/-- The RX window shows nothing of the state but the parser without its pulses and the free values of bytes that no frame
has written (R62, U1): it reads the same where every other register is reset. -/
theorem rxView_eq_parser (s : State) (i : Byte) :
    rxView s i = rxView { State.reset with rx := clearPulses s.rx, resets := s.resets } i := rfl

/-- So states that agree in these show the same RX window. -/
theorem rxView_congr (hrx : clearPulses s'.rx = clearPulses s.rx) (hresets : s'.resets = s.resets) (i : Byte) :
    rxView s' i = rxView s i := by
  rw [rxView_eq_parser s', rxView_eq_parser s, hrx, hresets]

/-! ## A held frame -/

/-- Parsers that agree with their pulses cleared differ in the pulses alone. -/
theorem eq_withPulses_of_clearPulses_eq (h : clearPulses r' = clearPulses r) :
    { r' with sofQ := r.sofQ, eofQ := r.eofQ } = r := by
  cases r
  cases r'
  simpa [clearPulses] using h

/-- With no byte, no RX_ACK and no RX_FLUSH only the pulses change (R151). -/
theorem rxNext_quiet (cfg : Config.Params) (r : Parser) : rxNext cfg r none false false = { rx := clearPulses r } := rfl

/-- A cycle that does not release the held frame takes no byte, and changes nothing of the parser but the pulses
(R76, R159). -/
theorem cycle_keeps_heldFrame (hs : s.rx.state = .hold) (hc : frameStays c) (h : cycle c s = .next s') :
    s'.rx = clearPulses s.rx ∧ s'.resets = s.resets := by
  obtain ⟨⟨hn, hflush⟩, hack⟩ := hc
  obtain ⟨-, rd, -, rfl⟩ := cycle_noReset hn h
  refine ⟨?_, advance_resets ..⟩
  rw [advance_rx, if_pos hs, hack, hflush, rxNext_quiet]

/-- Nor do any number of such cycles, by induction over the cycles. -/
theorem runCycles_keeps_heldFrame {cs : List CycleIn} (hs : s.rx.state = .hold) (hcs : ∀ c ∈ cs, frameStays c)
    (h : runCycles cs s = .next s') : clearPulses s'.rx = clearPulses s.rx ∧ s'.resets = s.resets := by
  induction cs generalizing s with
  | nil =>
    cases h
    exact ⟨rfl, rfl⟩
  | cons c cs ih =>
    obtain ⟨u, hu, hrun⟩ := runCycles_cons h
    obtain ⟨hc, hcs⟩ := List.forall_mem_cons.1 hcs
    obtain ⟨hrx, hresets⟩ := cycle_keeps_heldFrame hs hc hu
    have hhold : u.rx.state = .hold := by rw [hrx, clearPulses_state, hs]
    obtain ⟨hrx', hresets'⟩ := ih hhold hcs hrun
    exact ⟨by rw [hrx', hrx]; rfl, hresets'.trans hresets⟩

/-! ## The inputs of a busy encoder -/

/-- A move of a busy encoder sends at most one byte, and leaves the length, the command and the buffer (R143). -/
theorem EncoderMove.keeps_inputs (hm : EncoderMove cfg t t') (hb : t.state ≠ .idle) :
    t'.len = t.len ∧ t'.cmd = t.cmd ∧ t'.buf = t.buf := by
  cases hm with
  | start hs | setLen _ hs | setCmd _ hs | setBuf _ _ hs => exact absurd hs hb
  | _ => exact ⟨rfl, rfl, rfl⟩

/-- A write that the encoder does not ignore: TX_LEN, TX_CMD, or a TX window byte within the capacity (R203, R205,
R214). -/
def TxWrite.withinCapacity (cfg : Config.Params) : TxWrite → Prop
  | .len _ => True
  | .cmd _ => True
  | .buf i _ => i < cfg.maxPayload

/-- A busy encoder refuses such a write with TXERR (R143, R298). -/
theorem txWrite_busy {w : TxWrite} (hb : t.state ≠ .idle) (hw : w.withinCapacity cfg) (x : TxStep) :
    txWrite cfg w t x = raiseTx x := by
  cases w with
  | len d => exact if_neg hb
  | cmd d => exact if_neg hb
  | buf i d => exact (if_neg (not_not.2 hw)).trans (if_neg hb)

/-- The refused write raises TXERR, whatever is sent and whatever else is commanded in its cycle. -/
theorem txNext_busy_ev {w : TxWrite} (hb : t.state ≠ .idle) (hw : w.withinCapacity cfg) (sent : Option Byte)
    (start : Bool) : (txNext cfg t sent start (some w)).ev.getLsbD 4 = true := by
  simp only [txNext, txWrite_busy hb hw, raiseTx_ev, BitVec.getLsbD_or]
  exact Bool.or_true _

/-- An event of the encoder stands in the flags after its cycle, also where the host clears it (R120). -/
theorem nextErr_getLsbD_of_evTx {err clr evRx evTx : BitVec 5} {k : Nat} (h : evTx.getLsbD k = true) :
    (nextErr err clr evRx evTx).getLsbD k = true := by
  simp [nextErr, h]

theorem le_txWindow (i : Byte) : (0x300 : HostAddr) ≤ 3#2 ++ i := by
  have ha := addr_toNat (3#2 ++ i)
  rw [addrRegion_append] at ha
  exact BitVec.le_def.2 (ha ▸ Nat.le_add_right 768 _)

/-- A write in the TX window goes to the encoder's buffer (R191, R214). -/
theorem memWrite_txWindow (i d : Byte) : memWrite (3#2 ++ i) d = { wr := some (.buf i d), write := true } := by
  have hle := le_txWindow i
  have hne : ∀ a : HostAddr, a < 0x300 → 3#2 ++ i ≠ a := fun a ha h => absurd (h ▸ hle) (BitVec.not_le.2 ha)
  rw [memWrite, if_neg (hne _ (by decide)), if_neg (hne _ (by decide)), if_neg (hne _ (by decide)),
    if_neg (hne _ (by decide)), if_pos hle, addrIndex_append]

/-- The writes to the encoder's inputs, by address (R191). -/
theorem memWrite_encoderInput {a : HostAddr} (d : Byte)
    (ha : a = 0x008 ∨ a = 0x009 ∨ ∃ i : Byte, a = 3#2 ++ i ∧ i < cfg.maxPayload) :
    ∃ w : TxWrite, (memWrite a d).wr = some w ∧ w.withinCapacity cfg := by
  rcases ha with rfl | rfl | ⟨i, rfl, hi⟩
  · exact ⟨.len d, rfl, trivial⟩
  · exact ⟨.cmd d, rfl, trivial⟩
  · exact ⟨.buf i d, by rw [memWrite_txWindow], hi⟩

/-- A write to an input of the busy encoder leaves TXERR set (R143, R298). -/
theorem cycle_txerr_of_lockedWrite (hb : s.tx.state ≠ .idle) (hn : noReset c) (h : cycle c s = .next s') {w : TxWrite}
    (hwr : (hostTransaction c.host s).wr = some w) (hw : w.withinCapacity s.cfg) : s'.err.getLsbD 4 = true := by
  obtain ⟨-, rd, -, rfl⟩ := cycle_noReset hn h
  rw [advance_err, hwr]
  exact nextErr_getLsbD_of_evTx (txNext_busy_ev hb hw _ _)

/-! ## A frame that is not held -/

/-- Outside HOLD the masked registers read 0x00 (R48 to R51, R165). -/
theorem heldByte_of_not_hold (hs : s.rx.state ≠ .hold) (b : Byte) : heldByte s b = 0 := by
  simp [heldByte, held, hs]

/-- Outside HOLD the RX window reads 0x00 (R62, R165). -/
theorem rxView_of_not_hold (hs : s.rx.state ≠ .hold) (i : Byte) : rxView s i = 0 := by
  simp [rxView, held, hs]

/-- Two states whose parsers hold no frame and differ only in the captured fields, the running checksum, the index and the
buffer; the records of the model's own (outputs, inputs, report, count of writes) are left open. -/
structure UnheldAlike (s s' : State) : Prop where
  notHold : s.rx.state ≠ .hold
  state : s'.rx.state = s.rx.state
  result : s'.rx.result = s.rx.result
  sofQ : s'.rx.sofQ = s.rx.sofQ
  eofQ : s'.rx.eofQ = s.rx.eofQ
  tx : s'.tx = s.tx
  err : s'.err = s.err
  cfg : s'.cfg = s.cfg
  resets : s'.resets = s.resets

namespace UnheldAlike

theorem notHold' (h : UnheldAlike s s') : s'.rx.state ≠ .hold := h.state ▸ h.notHold

theorem statusByte_eq (h : UnheldAlike s s') : statusByte s' = statusByte s := by
  simp only [statusByte, held, h.state, h.err, h.tx]

theorem errByte_eq (h : UnheldAlike s s') : errByte s' = errByte s := by
  simp only [errByte, h.err]

theorem rxResultByte_eq (h : UnheldAlike s s') : rxResultByte s' = rxResultByte s := by
  simp only [rxResultByte, h.result]

theorem txStateByte_eq (h : UnheldAlike s s') : txStateByte s' = txStateByte s := by
  simp only [txStateByte, h.tx]

theorem txView_eq (h : UnheldAlike s s') (i : Byte) : txView s' i = txView s i := by
  simp only [txView, h.cfg, h.tx]

theorem txByte_eq (h : UnheldAlike s s') : txByte s' = txByte s := by
  simp only [txByte, txBufByte, h.tx, h.cfg, h.resets]

/-- Every address reads alike: each register and window is masked, or reads what the two states share (R190, R62). -/
theorem memRead_eq (h : UnheldAlike s s') (a : HostAddr) : memRead a s' = memRead a s := by
  have hmask (b b' : Byte) : heldByte s' b' = heldByte s b :=
    (heldByte_of_not_hold h.notHold' b').trans (heldByte_of_not_hold h.notHold b).symm
  have hwindow (i : Byte) : rxView s' i = rxView s i :=
    (rxView_of_not_hold h.notHold' i).trans (rxView_of_not_hold h.notHold i).symm
  simp only [memRead, hmask s.rx.dir s'.rx.dir, hmask s.rx.len s'.rx.len, hmask s.rx.cmd s'.rx.cmd,
    hmask s.rx.csum s'.rx.csum, hwindow, h.statusByte_eq, h.errByte_eq, h.rxResultByte_eq, h.txStateByte_eq, h.txView_eq,
    h.tx, h.cfg]

/-- The ports show neither the captured fields nor the buffer (R113 to R116). -/
theorem ports_eq (h : UnheldAlike s s') (rd : Byte) : ports rd s' = ports rd s := by
  simp only [ports, held, h.txByte_eq, h.state, h.sofQ, h.eofQ, h.tx, h.err]

end UnheldAlike

/-! ## The statements -/

/-- Settles O45: a held frame stays through every cycle, by induction over them, and the RX window shows only it. -/
theorem heldFrameIsStable : Obligations.HeldFrameIsStable := by
  intro cs s s' hs hcs hrun
  obtain ⟨hrx, hresets⟩ := runCycles_keeps_heldFrame hs hcs hrun
  exact ⟨eq_withPulses_of_clearPulses_eq hrx, rxView_congr hrx hresets⟩

/-- Settles O47: the moves of a busy encoder keep its inputs, and a write to one of them is refused. -/
theorem encoderInputsAreLockedWhileBusy : Obligations.EncoderInputsAreLockedWhileBusy := by
  intro c s s' hb hn h
  obtain ⟨hlen, hcmd, hbuf⟩ := (cycle_encoderMove hn h).keeps_inputs hb
  refine ⟨hlen, hcmd, hbuf, fun word hhost hwrite haddr => ?_⟩
  obtain ⟨w, hwr, hw⟩ := memWrite_encoderInput (wordData word) haddr
  refine cycle_txerr_of_lockedWrite hb hn h (w := w) ?_ hw
  rw [hhost, hostTransaction_word, if_pos hwrite, hwr]

/-- Settles O49: every host view and every port is masked outside HOLD, or shows what the two states share. -/
theorem unheldFrameIsInvisible : Obligations.UnheldFrameIsInvisible := by
  intro s1 s2 hs hstate hresult hsof heof htx herr hcfg hresets
  have h : UnheldAlike s1 s2 := ⟨hs, hstate, hresult, hsof, heof, htx, herr, hcfg, hresets⟩
  exact ⟨h.memRead_eq, h.ports_eq⟩

end Sys2Proof.Machine
end

section
/-! PROOFS. The family 30_encoding.md: the decoder and the encoder of operations are inverse to each other and agree with
the opcode table (R88 to R92, R99), a step runs the decoded operation, and `LOAD` loads a frame (R97, R98). -/

namespace Sys2Proof.Machine

/-! ## The fields of a host word -/

/-- An address is its region and its index, as bits (R89). -/
theorem addr_append (a : HostAddr) : addrRegion a ++ addrIndex a = a := by
  apply BitVec.eq_of_toNat_eq
  rw [addr_toNat (addrRegion a ++ addrIndex a), addrRegion_append, addrIndex_append, ← addr_toNat]

/-- Every host word, by its write bit, the region and the index of its address, and its data (R88, R89). -/
theorem hostWord_surjective (w : HostWord) : ∃ (wr : Bool) (g : BitVec 2) (n d : Byte), w = hostWord wr (g ++ n) d :=
  ⟨wordWrite w, addrRegion (wordAddr w), addrIndex (wordAddr w), wordData w, by rw [addr_append, hostWord_fields]⟩

/-- The address of index `n` in region `g`, as a number (R89). -/
theorem append_toNat (g : BitVec 2) (n : Byte) : (g ++ n : HostAddr).toNat = 256 * g.toNat + n.toNat := by
  rw [addr_toNat, addrRegion_append, addrIndex_append]

theorem region_cases (g : BitVec 2) : g = 0#2 ∨ g = 1#2 ∨ g = 2#2 ∨ g = 3#2 := by
  revert g
  decide

/-- A register's address is its number (R90). -/
theorem register_addr (n : Byte) : (0#2 ++ n : HostAddr) = BitVec.ofNat 10 n.toNat := by
  apply BitVec.eq_of_toNat_eq
  have hn := n.isLt
  simp only [append_toNat, BitVec.toNat_ofNat]
  omega

/-- The addresses 0x010 to 0x1FF are the numbers from 0x10 of the register region, and all of region 1 (R89, R92). -/
theorem reserved_iff (g : BitVec 2) (n : Byte) : (0x010 : HostAddr) ≤ g ++ n ∧ (g ++ n : HostAddr) ≤ 0x1FF ↔
    g = 0#2 ∧ 16 ≤ n.toNat ∨ g = 1#2 := by
  have hn := n.isLt
  simp only [BitVec.le_def, append_toNat]
  rcases region_cases g with rfl | rfl | rfl | rfl <;> simp <;> omega

/-! ## The decoder, by region -/

theorem decodeHost_register (wr : Bool) (n d : Byte) :
    decodeHost (hostWord wr (0#2 ++ n) d) = if wr then decodeRegWrite n d else decodeRegRead n := by
  simp [decodeHost]

theorem decodeHost_gap (wr : Bool) (n d : Byte) :
    decodeHost (hostWord wr (1#2 ++ n) d) = .error .reservedAddress := by
  simp [decodeHost]

theorem decodeHost_rxWindow (wr : Bool) (n d : Byte) :
    decodeHost (hostWord wr (2#2 ++ n) d) = .ok (if wr then .wrRxBufIgnored n d else .rdRxBuf n) := by
  simp [decodeHost]

theorem decodeHost_txWindow (wr : Bool) (n d : Byte) :
    decodeHost (hostWord wr (3#2 ++ n) d) = .ok (if wr then .wrTxBuf n d else .rdTxBuf n) := by
  simp [decodeHost]

/-- A write in region 0 is that of a register. -/
theorem decodeHost_registerWrite {a : HostAddr} (ha : addrRegion a = 0) (d : Byte) :
    decodeHost (hostWord true a d) = decodeRegWrite (addrIndex a) d := by
  simp [decodeHost, ha]

/-! ## A decoded operation encodes its word back -/

/-- A CTRL row encodes the data byte that it was chosen for (R99). -/
theorem encode_decodeCtrl : ∀ d : Byte, encode (decodeCtrl d) = .host (hostWord true 0x000 d) := by
  decide

/-- The row of a CTRL write is the one command that acts in it (log 9). -/
theorem decodeCtrl_wellFormed : ∀ d : Byte, (decodeCtrl d).wellFormed = true := by
  decide

theorem decodeRegRead_ok {n : Byte} {i : Instr} (h : decodeRegRead n = .ok i) :
    encode i = .host (hostWord false (0#2 ++ n) 0) ∧ i.wellFormed = true := by
  unfold decodeRegRead at h
  split at h
  case h_17 => cases h
  all_goals
    rename_i hn
    cases h
    rw [register_addr, hn]
    exact ⟨rfl, rfl⟩

theorem decodeRegWrite_ok {n d : Byte} {i : Instr} (h : decodeRegWrite n d = .ok i) :
    encode i = .host (hostWord true (0#2 ++ n) d) ∧ i.wellFormed = true := by
  unfold decodeRegWrite at h
  split at h
  case h_1 hn =>
    cases h
    rw [register_addr, hn]
    exact ⟨encode_decodeCtrl d, decodeCtrl_wellFormed d⟩
  case h_17 => cases h
  all_goals
    rename_i hn
    cases h
    rw [register_addr, hn]
    exact ⟨rfl, rfl⟩

/-- The row of a host word encodes its fields back, with D ignored on a read (R88), and is well formed. -/
theorem decodeHost_ok {w : HostWord} {i : Instr} (h : decodeHost w = .ok i) :
    encode i = .host (hostWord (wordWrite w) (wordAddr w) (if wordWrite w then wordData w else 0)) ∧
      i.wellFormed = true := by
  obtain ⟨wr, g, n, d, rfl⟩ := hostWord_surjective w
  simp only [wordWrite_hostWord, wordAddr_hostWord, wordData_hostWord]
  rcases region_cases g with rfl | rfl | rfl | rfl
  · rw [decodeHost_register] at h
    cases wr with
    | false => exact decodeRegRead_ok h
    | true => exact decodeRegWrite_ok h
  · cases (decodeHost_gap wr n d).symm.trans h
  · cases (decodeHost_rxWindow wr n d).symm.trans h
    cases wr <;> exact ⟨rfl, rfl⟩
  · cases (decodeHost_txWindow wr n d).symm.trans h
    cases wr <;> exact ⟨rfl, rfl⟩

/-! ## The words without a row -/

theorem decodeReg_reserved {n : Byte} (hn : 16 ≤ n.toNat) (d : Byte) :
    decodeRegRead n = .error .reservedAddress ∧ decodeRegWrite n d = .error .reservedAddress := by
  obtain ⟨k, hk⟩ := Nat.exists_eq_add_of_le' hn
  rw [decodeRegRead, decodeRegWrite, hk]
  exact ⟨rfl, rfl⟩

theorem decodeReg_register {n : Byte} (hn : n.toNat < 16) (d : Byte) :
    (∃ i, decodeRegRead n = .ok i) ∧ ∃ i, decodeRegWrite n d = .ok i := by
  unfold decodeRegRead decodeRegWrite
  generalize n.toNat = k at hn
  interval_cases k <;> exact ⟨⟨_, rfl⟩, _, rfl⟩

/-- The words with a reserved address have no row, all others have one (R92). -/
theorem decodeHost_reserved_iff (w : HostWord) :
    decodeHost w = .error .reservedAddress ↔ 0x010 ≤ wordAddr w ∧ wordAddr w ≤ 0x1FF := by
  obtain ⟨wr, g, n, d, rfl⟩ := hostWord_surjective w
  rw [wordAddr_hostWord, reserved_iff]
  rcases region_cases g with rfl | rfl | rfl | rfl
  · rw [decodeHost_register]
    rcases Nat.lt_or_ge n.toNat 16 with hn | hn
    · obtain ⟨⟨i, hi⟩, j, hj⟩ := decodeReg_register hn d
      cases wr <;> simp [hi, hj, hn]
    · obtain ⟨hi, hj⟩ := decodeReg_reserved hn d
      cases wr <;> simp [hi, hj, hn]
  · exact iff_of_true (decodeHost_gap wr n d) (.inr rfl)
  · rw [decodeHost_rxWindow]
    simp
  · rw [decodeHost_txWindow]
    simp

/-! ## The decoder undoes the encoder -/

/-- A write with no single command in it is `WR_CTRL` (log 9). -/
theorem decodeCtrl_of_not_single {d : Byte} (h : ctrlSingle d = false) : decodeCtrl d = .wrCtrl d := by
  simp only [ctrlSingle, Bool.or_eq_false_iff] at h
  obtain ⟨⟨⟨h7, h1⟩, h0⟩, h2⟩ := h
  simp only [decodeCtrl, h7, h1, h0, h2, Bool.false_eq_true, if_false]

theorem decodeCtrl_rxAckData (hi : BitVec 6) (h : (Instr.ctrlRxAck hi).wellFormed = true) :
    decodeCtrl (ctrlRxAckData hi) = .ctrlRxAck hi := by
  revert hi
  decide

theorem decodeCtrl_rxFlushData (hi : BitVec 5) (b0 : BitVec 1) (h : (Instr.ctrlRxFlush hi b0).wellFormed = true) :
    decodeCtrl (ctrlRxFlushData hi b0) = .ctrlRxFlush hi b0 := by
  revert hi b0
  decide

theorem decodeCtrl_txStartData (hi : BitVec 4) (lo : BitVec 2) (h : (Instr.ctrlTxStart hi lo).wellFormed = true) :
    decodeCtrl (ctrlTxStartData hi lo) = .ctrlTxStart hi lo := by
  revert hi lo
  decide

theorem decodeCtrl_softResetData (lo : BitVec 7) : decodeCtrl (ctrlSoftResetData lo) = .ctrlSoftReset lo := by
  revert lo
  decide

theorem decodeHost_ctrl (d : Byte) : decodeHost (hostWord true 0x000 d) = .ok (decodeCtrl d) :=
  decodeHost_registerWrite rfl d

/-! ## The rows of the opcode table -/

/-- The bitwise and of two host words, field by field. -/
theorem hostWord_and (wr wr' : Bool) (a a' : HostAddr) (d d' : Byte) :
    hostWord wr a d &&& hostWord wr' a' d' = hostWord (wr && wr') (a &&& a') (d &&& d') := by
  apply BitVec.eq_of_getLsbD_eq
  intro k hk
  simp only [hostWord, BitVec.getLsbD_and, BitVec.getLsbD_append, BitVec.getLsbD_ofBool]
  split
  · rfl
  · split
    · rfl
    · cases decide (k - 8 - 10 = 0) <;> rfl

theorem hostWord_inj {wr wr' : Bool} {a a' : HostAddr} {d d' : Byte} :
    hostWord wr a d = hostWord wr' a' d' ↔ wr = wr' ∧ a = a' ∧ d = d' := by
  refine ⟨fun h => ⟨?_, ?_, ?_⟩, fun ⟨hwr, ha, hd⟩ => by rw [hwr, ha, hd]⟩
  · simpa using congrArg wordWrite h
  · simpa using congrArg wordAddr h
  · simpa using congrArg wordData h

/-- A host word fits a row field by field (R88, R99). -/
theorem fits_hostWord_iff (p m : HostWord) (wr : Bool) (a : HostAddr) (d : Byte) :
    (TableRow.hostWord p m).fits (.host (hostWord wr a d)) = true ↔
      (wr && wordWrite m) = wordWrite p ∧ a &&& wordAddr m = wordAddr p ∧ d &&& wordData m = wordData p := by
  rw [← hostWord_inj, hostWord_fields p, ← hostWord_and, hostWord_fields m]
  exact beq_iff_eq

/-- Only the host rows fit a host word. -/
theorem tableRow_of_fits_host {row : TableRow} {w : HostWord} (h : row.fits (.host w) = true) :
    ∃ p m, row = .hostWord p m := by
  cases row with
  | hostWord p m => exact ⟨p, m, rfl⟩
  | rxByte | txByte | wireCmdByte => cases h

/-- A host row is that of one register, its whole address under the mask, or that of a window, its region under the mask
(R89, R90). -/
theorem tableRow_addr {i : Instr} {p m : HostWord} (h : tableRow i = .hostWord p m) :
    wordAddr m = 0x3FF ∧ wordAddr p < 0x010 ∨ wordAddr m = 0x300 ∧ 0x200 ≤ wordAddr p := by
  cases i with
  | rdRxBuf | wrRxBufIgnored | rdTxBuf | wrTxBuf =>
    cases h
    exact .inr (by decide)
  | rxByteHunt | rxBytePre2 | rxByteDir | rxByteLen | rxByteCmd | rxByteData | rxByteCsum
  | txBytePre1 | txBytePre2 | txByteDir | txByteLen | txByteCmd | txByteData | txByteCsum
  | cmdGetConfig | cmdSetConfig | cmdGetFix | cmdEchoTest => cases h
  | _ =>
    cases h
    exact .inl (by decide)

/-- So no row fits a word with a reserved address (R92, R99). -/
theorem not_fits_of_reserved {w : HostWord} (hw : 0x010 ≤ wordAddr w ∧ wordAddr w ≤ 0x1FF) (i : Instr) :
    (tableRow i).fits (.host w) = false := by
  refine Bool.eq_false_iff.2 fun hfit => ?_
  obtain ⟨p, m, hrow⟩ := tableRow_of_fits_host hfit
  rw [hrow, ← hostWord_fields w, fits_hostWord_iff] at hfit
  obtain ⟨-, haddr, -⟩ := hfit
  rcases tableRow_addr hrow with ⟨hm, hp⟩ | ⟨hm, hp⟩
  · have hmask : wordAddr w &&& 0x3FF = wordAddr w := BitVec.and_allOnes
    rw [← haddr, hm, hmask] at hp
    exact absurd hw.1 (BitVec.not_le.2 hp)
  · rw [← haddr, hm] at hp
    have hle : wordAddr w &&& 0x300 ≤ wordAddr w := BitVec.le_def.2 (BitVec.toNat_and _ _ ▸ Nat.and_le_left)
    exact absurd (BitVec.le_trans (BitVec.le_trans hp hle) hw.2) (by decide)

/-- "A decoder ignores D when W = 0" (R88): the mask of a read row leaves D open. -/
theorem tableRow_read_mask {i : Instr} {p m : HostWord} (h : tableRow i = .hostWord p m) (hread : wordWrite p = false) :
    wordData m = 0 := by
  cases i with
  | rdCtrl | rdStatus | rdErr | rdRxResult | rdRxDir | rdRxLen | rdRxCmd | rdRxCsum | rdTxLen | rdTxCmd | rdTxCsum
  | rdTxState | rdIdMaxlen | rdIdPre1 | rdIdPre2 | rdIdDirtx | rdRxBuf | rdTxBuf =>
    cases h
    rfl
  | rxByteHunt | rxBytePre2 | rxByteDir | rxByteLen | rxByteCmd | rxByteData | rxByteCsum
  | txBytePre1 | txBytePre2 | txByteDir | txByteLen | txByteCmd | txByteData | txByteCsum
  | cmdGetConfig | cmdSetConfig | cmdGetFix | cmdEchoTest => cases h
  | _ =>
    cases h
    cases hread

/-- Every operation fits its own row. -/
theorem encode_fits_tableRow (i : Instr) : (tableRow i).fits (encode i) = true := by
  cases i with
  | ctrlRxAck hi => exact Laws.EncodeFitsRow.ctrlRxAck hi
  | ctrlRxFlush hi b0 => exact Laws.EncodeFitsRow.ctrlRxFlush hi b0
  | ctrlTxStart hi lo => exact Laws.EncodeFitsRow.ctrlTxStart hi lo
  | ctrlSoftReset lo => exact Laws.EncodeFitsRow.ctrlSoftReset lo
  | rdRxBuf | wrRxBufIgnored | rdTxBuf | wrTxBuf => exact Laws.EncodeFitsRow.region_row _ _ _ (by decide) _ _
  | rxByteHunt b | rxBytePre2 b | rxByteDir b | rxByteLen b | rxByteCmd b | rxByteData b | rxByteCsum b =>
    exact Laws.EncodeFitsRow.byte_row b
  | txBytePre1 | txBytePre2 | txByteDir | txByteLen | txByteCmd | txByteData | txByteCsum => rfl
  | cmdGetConfig | cmdSetConfig | cmdGetFix | cmdEchoTest => rfl
  | _ => exact Laws.EncodeFitsRow.addr_row _ _ _ (by decide) _

/-- The row of a decoded host word fits the word: an operation fits its own row, and a read row leaves D open. -/
theorem fits_of_decodeHost {w : HostWord} {i : Instr} (h : decodeHost w = .ok i) :
    (tableRow i).fits (.host w) = true := by
  obtain ⟨henc, -⟩ := decodeHost_ok h
  have hfit := encode_fits_tableRow i
  rw [henc] at hfit
  obtain ⟨p, m, hrow⟩ := tableRow_of_fits_host hfit
  rw [hrow, fits_hostWord_iff] at hfit
  obtain ⟨hwr, haddr, hdata⟩ := hfit
  rw [hrow, ← hostWord_fields w, fits_hostWord_iff]
  refine ⟨hwr, haddr, ?_⟩
  cases hw : wordWrite w with
  | true => simpa [hw] using hdata
  | false =>
    have hm : wordData m = 0 := tableRow_read_mask hrow (by simpa [hw] using hwr.symm)
    simpa [hw, hm] using hdata

/-- A row of the host accesses needs no engine state (R99). -/
theorem rowSelected_of_encode_host {i : Instr} {w : HostWord} (h : encode i = .host w) (rx : RxState) (tx : TxState) :
    rowSelected rx tx i = true := by
  cases i with
  | rxByteHunt | rxBytePre2 | rxByteDir | rxByteLen | rxByteCmd | rxByteData | rxByteCsum => cases h
  | txBytePre1 | txBytePre2 | txByteDir | txByteLen | txByteCmd | txByteData | txByteCsum => cases h
  | _ => rfl

/-- A wire command byte fits the row of its value (R240). -/
theorem wire_row {c p : Byte} (h : c.toNat = p.toNat) : TableRow.fits (.wireCmdByte p 0xFF) (.wire c) = true := by
  rw [BitVec.eq_of_toNat_eq h]
  exact beq_iff_eq.2 BitVec.and_allOnes

/-! ## The decoded operation is the one that runs -/

/-- The transaction of a word that has a row is that row's (R99). -/
theorem hostTransaction_of_decodeHost {w : HostWord} {i : Instr} (h : decodeHost w = .ok i) (s : State) :
    hostTransaction (some w) s = hostOpOf i s := by
  simp only [hostTransaction, h]

/-- The transaction of a reserved access (R92). -/
theorem hostTransaction_of_reserved {w : HostWord} (hw : 0x010 ≤ wordAddr w ∧ wordAddr w ≤ 0x1FF) (s : State) :
    hostTransaction (some w) s = { write := wordWrite w } := by
  simp only [hostTransaction, (decodeHost_reserved_iff w).2 hw, opReserved]

/-- A receive row's meaning, in the state that selects it, is the cycle that accepts the byte (R91). -/
theorem exec_of_decodeRx {s : State} {b : Byte} {i : Instr} (h : decodeRx s.rx.state b = .ok i) :
    exec i s = runCycle opNop (some b) false s := by
  cases hs : s.rx.state <;> rw [hs] at h <;> cases h <;> exact if_pos hs

/-- A transmit row's meaning, in the state that selects it, is the cycle that transfers the byte (R91). -/
theorem exec_of_decodeTx {s : State} {i : Instr} (h : decodeTx s.tx.state = .ok i) :
    exec i s = runCycle opNop none true s := by
  cases hs : s.tx.state <;> rw [hs] at h <;> cases h <;> exact if_pos hs

theorem classify_of_decodeWire {c : Byte} {i : Instr} (h : decodeWire c = .ok i) (s : State) :
    classify c s = exec i s := by
  simp only [classify, h]

theorem step_nil {s : State} (h : s.inputs = []) : step s = cycle {} s := by
  simp only [step, h]

theorem step_cycle {s : State} {c : CycleIn} {rest : List Input} (h : s.inputs = .cycle c :: rest) :
    step s = cycle c { s with inputs := rest } := by
  simp only [step, h]

/-- A step takes the listed cycle off. -/
theorem step_listed (c : CycleIn) (s : State) (ins : List Input) :
    step { s with inputs := .cycle c :: ins } = cycle c { s with inputs := ins } := rfl

/-- A cycle whose only operation is a byte on the receive port (R91). -/
theorem cycle_rxByte (b : Byte) (s : State) :
    cycle { rxValid := true, rxData := b } s = runCycle opNop (some b) false s := by
  simp only [cycle, hostTransaction, rxOffer, Bool.false_eq_true, if_false, if_true]

/-- A cycle whose only operation is a ready sink (R91). -/
theorem cycle_txByte (s : State) : cycle { txReady := true } s = runCycle opNop none true s := rfl

theorem step_classify {s : State} {c : Byte} {rest : List Input} (h : s.inputs = .classify c :: rest) :
    step s = classify c { s with inputs := rest } := by
  simp only [step, h]

/-! ## Rows in other states -/

/-- A host row's meaning is the host cycle of its operation (R190, R191). -/
theorem exec_of_encode_host {i : Instr} {w : HostWord} (h : encode i = .host w) (s : State) :
    exec i s = hostCycle (hostOpOf i s) s := by
  cases i with
  | rxByteHunt | rxBytePre2 | rxByteDir | rxByteLen | rxByteCmd | rxByteData | rxByteCsum
  | txBytePre1 | txBytePre2 | txByteDir | txByteLen | txByteCmd | txByteData | txByteCsum
  | cmdGetConfig | cmdSetConfig | cmdGetFix | cmdEchoTest => cases h
  | _ => rfl

theorem rxCycle_refused_iff (st : RxState) (b : Byte) (s : State) :
    decide (s.rx.state = st) = false ↔ rxCycle st b s = .refused .armNotSelected := by
  unfold rxCycle
  split
  · next hs => exact iff_of_false (by simp [hs]) (runCycle_not_refused _ _ _ _ _)
  · next hs => exact iff_of_true (decide_eq_false hs) rfl

theorem txCycle_refused_iff (st : TxState) (s : State) :
    decide (s.tx.state = st) = false ↔ txCycle st s = .refused .armNotSelected := by
  unfold txCycle
  split
  · next hs => exact iff_of_false (by simp [hs]) (runCycle_not_refused _ _ _ _ _)
  · next hs => exact iff_of_true (decide_eq_false hs) rfl

/-! ## Wire commands -/

/-- What a report says of the two engines' command bytes (R99, R245). -/
theorem wireReport_iff (c : Byte) (p : Option Response) (s : State) :
    ((wireReport c p s).held = true ↔ s.rx.state = .hold ∧ s.rx.cmd = (wireReport c p s).command) ∧
      ((wireReport c p s).loaded = true ↔ s.tx.cmd = (wireReport c p s).command) := by
  simp [wireReport, held]

/-! ## Faults -/

theorem txView_error_iff {s : State} {i : Byte} {f : Fault} : txView s i = .error f ↔
    i < s.cfg.maxPayload ∧ s.tx.buf.read i.toNat = none ∧ f = .readUnwritten i.toNat := by
  unfold txView
  split
  · next hi => cases hr : s.tx.buf.read i.toNat <;> simp [hi, eq_comm]
  · next hi => simp [hi]

/-- Below the TX window every read answers a byte (R190). -/
theorem memRead_below_txWindow {a : HostAddr} (ha : a < 0x300) (s : State) : ∃ v, memRead a s = .ok v := by
  simp only [memRead, if_pos ha]
  split
  · split <;> exact ⟨_, rfl⟩
  · split <;> exact ⟨_, rfl⟩

theorem memRead_txWindow (i : Byte) (s : State) : memRead (3#2 ++ i) s = txView s i := by
  have hle := le_txWindow i
  have hn : ∀ b : HostAddr, b ≤ 0x300 → ¬ 3#2 ++ i < b := fun b hb => BitVec.not_lt.2 (BitVec.le_trans hb hle)
  rw [memRead, if_neg (hn _ (by decide)), if_neg (hn _ (by decide)), if_neg (hn _ (by decide)), addrIndex_append]

/-- The addresses from 0x300 on are the TX window (R89). -/
theorem exists_txWindow {a : HostAddr} (ha : 0x300 ≤ a) : ∃ i : Byte, a = 3#2 ++ i := by
  have hsum : 768 ≤ 256 * (addrRegion a).toNat + (addrIndex a).toNat := addr_toNat a ▸ BitVec.le_def.1 ha
  have hg : (addrRegion a).toNat = 3 := by omega
  refine ⟨addrIndex a, ?_⟩
  rw [← BitVec.eq_of_toNat_eq (y := 3#2) hg, addr_append]

/-- A read faults exactly on an unwritten byte of the TX window within the capacity (U3). -/
theorem memRead_error_iff {a : HostAddr} {s : State} {f : Fault} : memRead a s = .error f ↔
    ∃ i : Byte, a = 3#2 ++ i ∧ i < s.cfg.maxPayload ∧ s.tx.buf.read i.toNat = none ∧ f = .readUnwritten i.toNat := by
  by_cases ha : a < 0x300
  · obtain ⟨v, hv⟩ := memRead_below_txWindow ha s
    refine iff_of_false (by simp [hv]) fun ⟨i, hi, _⟩ => ?_
    exact absurd (hi ▸ le_txWindow i) (BitVec.not_le.2 ha)
  · obtain ⟨i, rfl⟩ := exists_txWindow (BitVec.not_lt.1 ha)
    rw [memRead_txWindow, txView_error_iff]
    refine ⟨fun h => ⟨i, rfl, h⟩, fun ⟨j, hj, h⟩ => ?_⟩
    have hij : i = j := by simpa using congrArg addrIndex hj
    exact hij ▸ h

/-- The cycle holds a host read of TX window byte `i`, within the capacity and unwritten (U3). -/
def ReadsUnwritten (c : CycleIn) (s : State) (i : Byte) : Prop :=
  (∃ w, c.host = some w ∧ wordWrite w = false ∧ wordAddr w = 3#2 ++ i) ∧ i < s.cfg.maxPayload ∧
    s.tx.buf.read i.toNat = none

theorem hostTransaction_error_iff {c : CycleIn} {s : State} {f : Fault} :
    (hostTransaction c.host s).rdata = .error f ↔ ∃ i, ReadsUnwritten c s i ∧ f = .readUnwritten i.toNat := by
  unfold ReadsUnwritten
  cases hc : c.host with
  | none => simp [hostTransaction, opNop]
  | some w =>
    rw [hostTransaction_word]
    cases hw : wordWrite w with
    | true => simp [hw, memWrite_rdata]
    | false => simp [hw, memRead_error_iff, and_assoc]

/-- Where both faults of a cycle would happen, it is the read's (log 8). -/
theorem runCycle_fault_iff {h : HostOp} {o : Option Byte} {r : Bool} {s : State} {f : Fault} :
    runCycle h o r s = .fault f ↔ h.rdata = .error f ∨
      (¬ ∃ g, h.rdata = .error g) ∧ r = true ∧ sendsUnwritten s = true ∧ f = .sendUnwritten s.tx.idx.toNat := by
  constructor
  · intro hf
    cases hrd : h.rdata with
    | error g => simpa [runCycle, hrd] using hf
    | ok rd => simpa [hrd] using runCycle_fault hf
  · rintro (hrd | ⟨hrd, hr, hsend, rfl⟩)
    · simp only [runCycle, hrd]
    · cases hok : h.rdata with
      | error g => exact absurd ⟨g, hok⟩ hrd
      | ok rd => simp only [runCycle, hok, hr, hsend, and_self, if_true]

theorem sendsUnwritten_iff (s : State) :
    sendsUnwritten s = true ↔ s.tx.state = .data ∧ s.tx.buf.read s.tx.idx.toNat = none := by
  simp [sendsUnwritten]

/-- A cycle faults exactly on an unwritten byte that it reads or transfers, outside reset (U3). -/
theorem cycle_fault_iff {c : CycleIn} {s : State} {f : Fault} : cycle c s = .fault f ↔ c.rst = false ∧
    ((∃ i, ReadsUnwritten c s i ∧ f = .readUnwritten i.toNat) ∨
      (¬ ∃ i, ReadsUnwritten c s i) ∧ c.txReady = true ∧ s.tx.state = .data ∧
        s.tx.buf.read s.tx.idx.toNat = none ∧ f = .sendUnwritten s.tx.idx.toNat) := by
  have hread : (∃ g, (hostTransaction c.host s).rdata = .error g) ↔ ∃ i, ReadsUnwritten c s i :=
    ⟨fun ⟨g, hg⟩ => (hostTransaction_error_iff.1 hg).imp fun _ h => h.1,
      fun ⟨i, hi⟩ => ⟨_, hostTransaction_error_iff.2 ⟨i, hi, rfl⟩⟩⟩
  unfold cycle
  cases c.rst with
  | true => simp
  | false =>
    simp only [Bool.false_eq_true, if_false, true_and]
    rw [runCycle_fault_iff, hostTransaction_error_iff, hread, sendsUnwritten_iff, and_assoc]

theorem cycle_not_refused (c : CycleIn) (s : State) (r : Refusal) : cycle c s ≠ .refused r := by
  unfold cycle
  split
  · exact nofun
  · exact runCycle_not_refused _ _ _ _ r

/-- Every input has an effect (R94, R260). -/
theorem step_not_refused (s : State) (r : Refusal) : step s ≠ .refused r := by
  unfold step
  split
  · exact cycle_not_refused _ _ r
  · exact cycle_not_refused _ _ r
  · next c rest _ =>
    obtain ⟨b, p, hp⟩ := classify_next c { s with inputs := rest }
    rw [hp]
    exact nofun

/-- Only a listed cycle can fault: the idle cycle and a classification never do. -/
theorem step_fault_iff {s : State} {f : Fault} : step s = .fault f ↔
    ∃ c rest, s.inputs = .cycle c :: rest ∧ cycle c { s with inputs := rest } = .fault f := by
  match hin : s.inputs with
  | [] => simp [step_nil hin, cycle_fault_iff, ReadsUnwritten]
  | .cycle c :: rest => simp [step_cycle hin]
  | .classify c :: rest =>
    obtain ⟨b, p, hp⟩ := classify_next c { s with inputs := rest }
    simp [step_classify hin, hp]

/-! ## Runs -/

theorem run_succ_of_next {M : Host.Core} {s t : M.State} (h : M.step s = .next t) (n : Nat) :
    M.run (n + 1) s = M.run n t := by
  simp only [Host.Core.run, h]

theorem run_succ_of_fault {M : Host.Core} {s : M.State} {f : M.Fault} (h : M.step s = .fault f) (n : Nat) :
    M.run (n + 1) s = .fault f := by
  simp only [Host.Core.run, h]

theorem core_run_of_next {s t : State} (h : step s = .next t) (n : Nat) :
    Host.Core.run Sys2Proof.core (n + 1) s = Host.Core.run Sys2Proof.core n t :=
  run_succ_of_next (M := Sys2Proof.core) (s := s) (t := t) h n

theorem core_run_of_fault {s : State} {f : Fault} (h : step s = .fault f) (n : Nat) :
    Host.Core.run Sys2Proof.core (n + 1) s = .fault f :=
  run_succ_of_fault (M := Sys2Proof.core) (s := s) (f := f) h n

/-! ## Loading a frame -/

/-- The encoder with one input written. -/
def TxWrite.store : TxWrite → Encoder → Encoder
  | .len d, t => { t with len := d }
  | .cmd d, t => { t with cmd := d }
  | .buf i d, t => { t with buf := t.buf.write i.toNat d }

/-- An idle encoder stores a write within the capacity, and raises nothing (R203, R205, R214). -/
theorem txWrite_idle {cfg : Config.Params} {t : Encoder} {w : TxWrite} (hs : t.state = .idle)
    (hw : w.withinCapacity cfg) : txWrite cfg w t { tx := t } = { tx := w.store t } := by
  cases w with
  | len d => exact if_pos hs
  | cmd d => exact if_pos hs
  | buf i d => exact (if_neg (not_not.2 hw)).trans (if_pos hs)

theorem txNext_idle_write {cfg : Config.Params} {t : Encoder} {w : TxWrite} (hs : t.state = .idle)
    (hw : w.withinCapacity cfg) : txNext cfg t none false (some w) = { tx := w.store t } :=
  (txNext_idle ..).trans (txWrite_idle hs hw)

/-- The cycle of a host write to an encoder input, while the encoder is idle (R191, R203, R205, R214). -/
theorem cycle_lineWrite_store {a : HostAddr} {d : Byte} {w : TxWrite} {s : State} (hs : s.tx.state = .idle)
    (hw : w.withinCapacity s.cfg) (ha : memWrite a d = { wr := some w, write := true }) :
    ∃ t, cycle (lineWrite a d) s = .next t ∧ t.tx = w.store s.tx ∧ t.err = s.err ∧ t.cfg = s.cfg := by
  have hcycle : cycle (lineWrite a d) s = hostCycle (hostTransaction (some (hostWord true a d)) s) s := rfl
  rw [hcycle, hostTransaction_write, ha, hostCycle, runCycle_advance (rd := 0) rfl (by simp) (by simp)]
  refine ⟨_, rfl, ?_, ?_, advance_cfg ..⟩
  · simp [advance, txNext_idle_write hs hw]
  · simp [advance, txNext_idle_write hs hw, rxNext_quiet]

/-- A buffer with bytes written from index `i` on. -/
def Memory.writeFrom (m : Memory) : Nat → List Byte → Memory
  | _, [] => m
  | i, b :: bs => (m.write i b).writeFrom (i + 1) bs

theorem Memory.read_writeFrom_outside {bs : List Byte} {m : Memory} {i j : Nat} (hj : j < i ∨ i + bs.length ≤ j) :
    (m.writeFrom i bs).read j = m.read j := by
  induction bs generalizing m i with
  | nil => rfl
  | cons b bs ih =>
    rw [List.length_cons] at hj
    rw [Memory.writeFrom, ih (by omega), Memory.read_write_other m i j b (by omega)]

theorem Memory.read_writeFrom_inside {bs : List Byte} {m : Memory} {i k : Nat} (hk : k < bs.length) :
    (m.writeFrom i bs).read (i + k) = some bs[k] := by
  induction bs generalizing m i k with
  | nil => cases hk
  | cons b bs ih =>
    rw [Memory.writeFrom]
    cases k with
    | zero =>
      rw [Memory.read_writeFrom_outside (by omega), Nat.add_zero, Memory.read_write_same, List.getElem_cons_zero]
    | succ k =>
      have hshift : i + (k + 1) = i + 1 + k := by omega
      rw [hshift, ih (Nat.lt_of_succ_lt_succ hk), List.getElem_cons_succ]

/-- Bytes written from index 0 on are what the buffer holds. -/
theorem Memory.holds_writeFrom (m : Memory) (p : List Byte) : (m.writeFrom 0 p).holds p := fun k hk => by
  simpa using Memory.read_writeFrom_inside (m := m) (i := 0) hk

/-- Payload index `i` of the TX window (R89). -/
theorem txWindow_ofNat {i : Nat} (hi : i < 256) : BitVec.ofNat 10 (0x300 + i) = 3#2 ++ BitVec.ofNat 8 i := by
  apply BitVec.eq_of_toNat_eq
  simp only [append_toNat, BitVec.toNat_ofNat]
  omega

theorem runCycles_cons_of_next {c : CycleIn} {s t : State} (h : cycle c s = .next t) (cs : List CycleIn) :
    runCycles (c :: cs) s = runCycles cs t := by
  simp only [runCycles, h]

/-- The window writes of `LOAD` store the payload, by induction over it (R98, R214). -/
theorem runCycles_loadFrom {bs : List Byte} {i : Nat} {s : State} (hs : s.tx.state = .idle)
    (hfit : i + bs.length ≤ s.cfg.maxPayload.toNat) :
    ∃ t, runCycles (loadFrom i bs) s = .next t ∧ t.tx = { s.tx with buf := s.tx.buf.writeFrom i bs } ∧
      t.err = s.err := by
  induction bs generalizing i s with
  | nil => exact ⟨s, rfl, rfl, rfl⟩
  | cons b bs ih =>
    rw [List.length_cons] at hfit
    have hi : i < 256 := by omega
    have hidx : (BitVec.ofNat 8 i).toNat = i := Nat.mod_eq_of_lt hi
    have hw : (TxWrite.buf (BitVec.ofNat 8 i) b).withinCapacity s.cfg := by
      rw [TxWrite.withinCapacity, BitVec.lt_def, hidx]
      omega
    obtain ⟨u, hu, htx, herr, hcfg⟩ := cycle_lineWrite_store hs hw (memWrite_txWindow _ b)
    obtain ⟨t, ht, htx', herr'⟩ := ih (i := i + 1) (s := u) (by rw [htx]; exact hs) (by rw [hcfg]; omega)
    refine ⟨t, ?_, ?_, herr'.trans herr⟩
    · rw [loadFrom, txWindow_ofNat hi, runCycles_cons_of_next hu, ht]
    · rw [htx', htx, TxWrite.store, hidx, Memory.writeFrom]

theorem loadFrom_length (i : Nat) (bs : List Byte) : (loadFrom i bs).length = bs.length := by
  induction bs generalizing i with
  | nil => rfl
  | cons b bs ih => rw [loadFrom, List.length_cons, List.length_cons, ih]

/-! ## The statements -/

/-- Settles O1, row by row: a register row by its address, a window row by its region, a CTRL row by its command bits, a
stream row by the state that selects it. -/
theorem decodeEncodeRoundTrip : Obligations.DecodeEncodeRoundTrip := by
  intro i rx tx hwf hsel
  cases i with
  | wrCtrl d =>
    have hd : ctrlSingle d = false := by simpa [Instr.wellFormed] using hwf
    exact (decodeHost_ctrl d).trans (congrArg _ (decodeCtrl_of_not_single hd))
  | ctrlRxAck hi => exact (decodeHost_ctrl _).trans (congrArg _ (decodeCtrl_rxAckData hi hwf))
  | ctrlRxFlush hi b0 => exact (decodeHost_ctrl _).trans (congrArg _ (decodeCtrl_rxFlushData hi b0 hwf))
  | ctrlTxStart hi lo => exact (decodeHost_ctrl _).trans (congrArg _ (decodeCtrl_txStartData hi lo hwf))
  | ctrlSoftReset lo => exact (decodeHost_ctrl _).trans (congrArg _ (decodeCtrl_softResetData lo))
  | rdRxBuf n | wrRxBufIgnored n d => exact decodeHost_rxWindow _ n _
  | rdTxBuf n | wrTxBuf n d => exact decodeHost_txWindow _ n _
  | rxByteHunt b | rxBytePre2 b | rxByteDir b | rxByteLen b | rxByteCmd b | rxByteData b | rxByteCsum b =>
    cases of_decide_eq_true hsel
    rfl
  | txBytePre1 | txBytePre2 | txByteDir | txByteLen | txByteCmd | txByteData | txByteCsum =>
    cases of_decide_eq_true hsel
    rfl
  | cmdGetConfig | cmdSetConfig | cmdGetFix | cmdEchoTest => rfl
  | rdCtrl | rdStatus | rdErr | rdRxResult | rdRxDir | rdRxLen | rdRxCmd | rdRxCsum | rdTxLen | rdTxCmd | rdTxCsum
  | rdTxState | rdIdMaxlen | rdIdPre1 | rdIdPre2 | rdIdDirtx => rfl
  | _ => exact (decodeHost_registerWrite rfl _).trans rfl

/-- Settles O2, format by format: a decoded host word encodes back up to the data of a read, and every operation fits its
own row. -/
theorem decodedOperationFitsItsTableRow : Obligations.DecodedOperationFitsItsTableRow := by
  intro rx tx op i h
  cases op with
  | host w =>
    obtain ⟨henc, hwf⟩ := decodeHost_ok h
    exact ⟨fits_of_decodeHost h, hwf, rowSelected_of_encode_host henc rx tx⟩
  | rx b =>
    have hb := Laws.EncodeFitsRow.byte_row b
    cases rx <;> cases h <;> exact ⟨hb, rfl, rfl⟩
  | tx => cases tx <;> cases h <;> exact ⟨rfl, rfl, rfl⟩
  | wire c =>
    have h : decodeWire c = .ok i := h
    unfold decodeWire at h
    split at h
    case h_5 => cases h
    all_goals
      rename_i hc
      cases h
      exact ⟨wire_row hc, rfl, rfl⟩

/-- Settles O3: the decoder goes by the region and the register number, the table by its masks. -/
theorem unmatchedHostWordsAreTheReservedOnes : Obligations.UnmatchedHostWordsAreTheReservedOnes := by
  intro w
  refine ⟨decodeHost_reserved_iff w, not_fits_of_reserved, fun i h => ?_⟩
  obtain ⟨henc, -⟩ := decodeHost_ok h
  exact henc

/-- Settles O42: the faults of a step are those of its cycle. -/
theorem stepStopsOnlyOnUnwrittenBytes : Obligations.StepStopsOnlyOnUnwrittenBytes := by
  intro s f
  refine ⟨step_not_refused s, ?_⟩
  simp only [step_fault_iff, cycle_fault_iff, ReadsUnwritten, and_assoc]

/-- Settles O52: by induction over the cycles, since a cycle keeps the list and does not look at it. -/
theorem runsOfCyclesAreSteps : Obligations.RunsOfCyclesAreSteps := by
  intro cs rest s
  induction cs generalizing s with
  | nil => rfl
  | cons c cs ih =>
    have hstep := (step_listed c s (cs.map Input.cycle ++ rest)).trans (cycle_inputs c s _)
    rw [runCycles, cycle_inputs c s]
    cases hc : cycle c s with
    | next t => exact (core_run_of_next (hstep.trans (by rw [hc])) _).trans (ih t)
    | fault f => exact core_run_of_fault (hstep.trans (by rw [hc])) _
    | refused r => exact absurd hc (cycle_not_refused c s r)

/-- Settles O53: the length and the command are written first, then the payload byte by byte. -/
theorem loadLoadsTheFrame : Obligations.LoadLoadsTheFrame := by
  intro s c p hs hfit
  refine ⟨by rw [lineLoad, List.length_cons, List.length_cons, loadFrom_length], ?_⟩
  obtain ⟨u, hu, htxu, herru, hcfgu⟩ :=
    cycle_lineWrite_store (a := 0x008) (w := .len (BitVec.ofNat 8 p.length)) hs trivial rfl
  obtain ⟨v, hv, htxv, herrv, hcfgv⟩ :=
    cycle_lineWrite_store (a := 0x009) (w := .cmd c) (s := u) (by rw [htxu]; exact hs) trivial rfl
  obtain ⟨t, ht, htx, herr⟩ :=
    runCycles_loadFrom (bs := p) (i := 0) (s := v) (by rw [htxv, htxu]; exact hs) (by rw [hcfgv, hcfgu]; omega)
  have hbuf : t.tx = { s.tx with
      len := BitVec.ofNat 8 p.length, cmd := c, buf := s.tx.buf.writeFrom 0 p } := by
    rw [htx, htxv, htxu]
    rfl
  refine ⟨t, ?_, ?_⟩
  · rw [lineLoad, runCycles_cons_of_next hu, runCycles_cons_of_next hv, ht]
  · rw [hbuf]
    exact ⟨hs, rfl, rfl, Memory.holds_writeFrom _ p, fun j hj => Memory.read_writeFrom_outside (.inr (by omega)),
      herr.trans (herrv.trans herru)⟩

/-- Settles O4: each word has one row, found by the decoder's own evaluation. -/
theorem specWordsDecode : Obligations.SpecWordsDecode :=
  ⟨rfl, rfl, rfl, rfl, rfl, rfl, rfl, rfl, rfl, rfl, rfl, rfl, rfl, rfl⟩

/-- Settles O5: each kind of input is one cycle, or one classification, of the decoded row. -/
theorem stepRunsDecodedInstruction : Obligations.StepRunsDecodedInstruction := by
  intro s rest i
  refine ⟨fun w hin hdec => ?_, fun b hin hdec => ?_, fun hin hdec => ?_, fun c hin hdec => ?_, step_nil⟩
  · rw [step_host hin, hostTransaction_of_decodeHost hdec, exec_of_decodeHost _ hdec]
  · rw [step_cycle hin, cycle_rxByte, exec_of_decodeRx (s := { s with inputs := rest }) hdec]
  · rw [step_cycle hin, cycle_txByte, exec_of_decodeTx (s := { s with inputs := rest }) hdec]
  · rw [step_classify hin, classify_of_decodeWire hdec]

/-- Settles O6: a reserved access is a transaction that drives 0x00 or is an ignored write. -/
theorem reservedAccessReadsZeroAndWritesNothing : Obligations.ReservedAccessReadsZeroAndWritesNothing := by
  intro s rest w hin
  rw [step_host hin]
  refine ⟨fun hw => ?_, fun r => runCycle_not_refused _ _ _ _ r⟩
  rw [hostTransaction_of_reserved hw]
  cases wordWrite w with
  | false => exact hostCycle_read 0 _
  | true => exact hostCycle_ignored _

/-- Settles O33: a stream row is refused in another state, and every other row is a host cycle or a classification. -/
theorem streamRowsNeedTheirState : Obligations.StreamRowsNeedTheirState := by
  intro i s
  cases i with
  | rxByteHunt b | rxBytePre2 b | rxByteDir b | rxByteLen b | rxByteCmd b | rxByteData b | rxByteCsum b =>
    exact rxCycle_refused_iff _ b s
  | txBytePre1 | txBytePre2 | txByteDir | txByteLen | txByteCmd | txByteData | txByteCsum =>
    exact txCycle_refused_iff _ s
  | cmdGetConfig | cmdSetConfig | cmdGetFix | cmdEchoTest => exact iff_of_false nofun nofun
  | _ =>
    rw [exec_of_encode_host rfl]
    exact iff_of_false nofun (runCycle_not_refused _ _ _ _ _)

/-- Settles O34: each wire-command row adds its report to the state. -/
theorem wireRowsOnlyClassify : Obligations.WireRowsOnlyClassify := by
  intro s
  refine ⟨wireReport wireGetConfig (readGetConfig s) s, wireReport wireSetConfig (readSetConfig s) s,
    wireReport wireGetFix (readGetFix s) s, wireReport wireEchoTest (readEchoTest s) s,
    rfl, rfl, rfl, rfl, rfl, rfl, rfl, rfl, ?_⟩
  simp only [List.forall_mem_cons, List.not_mem_nil, false_imp_iff, implies_true, and_true]
  exact ⟨wireReport_iff _ _ s, wireReport_iff _ _ s, wireReport_iff _ _ s, wireReport_iff _ _ s⟩

end Sys2Proof.Machine
end

section
/-! PROOFS. The family 40_cycle.md: what the ports carry in a cycle (R113 to R116), what an idle cycle, a waiting sink, a
flush and a soft reset do to it (R118, R121, R123, R303), and that neither engine looks at the other (R124). -/

namespace Sys2Proof.Machine

variable {c c' : CycleIn} {s s' : State}

/-! ## The ports -/

/-- The levels are the low bits of STATUS (R116, R194). -/
theorem statusByte_frameValid (s : State) : (statusByte s).getLsbD 0 = held s := by
  simp only [statusByte, BitVec.getLsbD_append]
  simp

theorem statusByte_txBusy (s : State) : (statusByte s).getLsbD 1 = decide (s.tx.state ≠ .idle) := by
  simp only [statusByte, BitVec.getLsbD_append]
  simp

theorem statusByte_errAny (s : State) : (statusByte s).getLsbD 2 = decide (s.err ≠ 0) := by
  simp only [statusByte, BitVec.getLsbD_append]
  simp

/-- The ports of a cycle are those of its start-of-cycle state: with `rst` not ready and not valid, else with the read data
of the host transaction (R113 to R116, R294). -/
theorem cycle_out (h : cycle c s = .next s') :
    (c.rst = true ∧ s'.out = resetPorts s) ∨
      (c.rst = false ∧ ∃ rd, (hostTransaction c.host s).rdata = .ok rd ∧
        s'.out = ports (driven (hostTransaction c.host s) rd s) s) := by
  rcases cycle_next h with ⟨hr, rfl⟩ | ⟨hr, -, rd, hrd, rfl⟩ | ⟨⟨hr, -⟩, -, rd, hrd, rfl⟩
  · exact .inl ⟨hr, rfl⟩
  · exact .inr ⟨hr, rd, hrd, rfl⟩
  · exact .inr ⟨hr, rd, hrd, rfl⟩

/-- Without a host access the host port carries 0x00 (R115, R216). -/
theorem driven_noAccess {rd : Byte} (hc : c.host = none) (hrd : (hostTransaction c.host s).rdata = .ok rd) :
    driven (hostTransaction c.host s) rd s = 0 := by
  rw [hc] at hrd ⊢
  cases hrd
  rfl

/-- A read drives `MemRead` (R115, R190). -/
theorem driven_read {rd : Byte} {w : HostWord} (hc : c.host = some w) (hw : wordWrite w = false)
    (hrd : (hostTransaction c.host s).rdata = .ok rd) :
    memRead (wordAddr w) s = .ok (driven (hostTransaction c.host s) rd s) := by
  have hop : hostTransaction c.host s = { rdata := memRead (wordAddr w) s } := by
    rw [hc, hostTransaction_word, hw]
    rfl
  rw [hop] at hrd ⊢
  exact hrd

/-! ## Idle cycles -/

/-- An idle cycle: no reset, no host access, and no transfer, since a byte offered is not taken in HOLD, nor a ready sink
served in IDLE (R113, R114, R121). -/
def IdleCycle (s : State) (c : CycleIn) : Prop :=
  c.rst = false ∧ c.host = none ∧ (c.rxValid = true → s.rx.state = .hold) ∧ (c.txReady = true → s.tx.state = .idle)

/-- An idle cycle only clears the pulses (R121). -/
theorem cycle_idle (hc : IdleCycle s c) : cycle c s = .next (quietNext 0 s) := by
  obtain ⟨hrst, hhost, hrx, htx⟩ := hc
  have hin : (if s.rx.state = .hold then none else rxOffer c) = none := by
    cases hv : c.rxValid with
    | true => exact if_pos (hrx hv)
    | false => simp [rxOffer, hv]
  have hsent : ¬ (s.tx.state ≠ .idle ∧ c.txReady = true) := fun ⟨hbusy, hready⟩ => hbusy (htx hready)
  have hwritten : ¬ (c.txReady = true ∧ sendsUnwritten s = true) := fun ⟨hready, hsend⟩ => by
    cases (htx hready).symm.trans ((sendsUnwritten_iff s).1 hsend).1
  have hcycle : cycle c s = runCycle opNop (rxOffer c) c.txReady s := by
    simp only [cycle, hrst, hhost, hostTransaction, Bool.false_eq_true, if_false]
  rw [hcycle, runCycle_advance (rd := 0) rfl hwritten rfl]
  simp [advance, hin, hsent, opNop, rxNext_quiet, txNext, clearPulses, quietNext, driven, countWrites]

/-- Nor do more of them change anything but the record of the ports, by induction over the cycles. -/
theorem runCycles_idle {cs : List CycleIn} (hne : cs ≠ []) (hcs : ∀ c ∈ cs, IdleCycle s c) :
    ∃ o, runCycles cs s = .next { quietNext 0 s with out := o } := by
  induction cs generalizing s with
  | nil => exact absurd rfl hne
  | cons c cs ih =>
    obtain ⟨hc, hcs⟩ := List.forall_mem_cons.1 hcs
    rw [runCycles_cons_of_next (cycle_idle hc)]
    cases cs with
    | nil => exact ⟨_, rfl⟩
    | cons c' cs => exact ih (s := quietNext 0 s) (List.cons_ne_nil c' cs) hcs

/-- Where no pulse stands, clearing the pulses changes nothing. -/
theorem clearPulses_of_noPulse {r : Parser} (hsof : r.sofQ = false) (heof : r.eofQ = false) : clearPulses r = r := by
  cases r
  cases hsof
  cases heof
  rfl

/-! ## An offered byte -/

/-- The offered byte depends on the encoder, the parameters and the free value of unwritten bytes alone (R131). -/
theorem txByte_congr (htx : s'.tx = s.tx) (hcfg : s'.cfg = s.cfg) (hresets : s'.resets = s.resets) :
    txByte s' = txByte s := by
  simp only [txByte, txBufByte, htx, hcfg, hresets]

/-- A busy encoder keeps every register while the sink is not ready, whatever the host does short of a reset (R123). -/
theorem cycle_keeps_encoder (hbusy : s.tx.state ≠ .idle) (hn : noReset c) (hready : c.txReady = false)
    (h : cycle c s = .next s') : s'.tx = s.tx ∧ s'.cfg = s.cfg ∧ s'.resets = s.resets := by
  obtain ⟨-, rd, -, rfl⟩ := cycle_noReset hn h
  refine ⟨?_, advance_cfg .., advance_resets ..⟩
  rw [advance_tx, txNext_busy _ _ _ _ _ hbusy]
  simp only [hready, Bool.false_eq_true, and_false, if_false]

/-- And so over any number of such cycles, by induction over them. -/
theorem runCycles_keeps_encoder {cs : List CycleIn} (hbusy : s.tx.state ≠ .idle)
    (hcs : ∀ c ∈ cs, noReset c ∧ c.txReady = false) (h : runCycles cs s = .next s') :
    s'.tx = s.tx ∧ s'.cfg = s.cfg ∧ s'.resets = s.resets := by
  induction cs generalizing s with
  | nil =>
    cases h
    exact ⟨rfl, rfl, rfl⟩
  | cons c cs ih =>
    obtain ⟨u, hu, hrun⟩ := runCycles_cons h
    obtain ⟨⟨hn, hready⟩, hcs⟩ := List.forall_mem_cons.1 hcs
    obtain ⟨htx, hcfg, hresets⟩ := cycle_keeps_encoder hbusy hn hready hu
    obtain ⟨htx', hcfg', hresets'⟩ := ih (htx ▸ hbusy) hcs hrun
    exact ⟨htx'.trans htx, hcfg'.trans hcfg, hresets'.trans hresets⟩

/-! ## What each engine depends on -/

/-- The CTRL data of a cycle is that of its host word (R117). -/
theorem ctrlData_congr (h : c'.host = c.host) : ctrlData c' = ctrlData c := by
  simp only [ctrlData, h]

/-- The register write of a host word is the same in every state (R191). -/
theorem hostTransaction_wr_congr (host : Option HostWord) (s s' : State) :
    (hostTransaction host s').wr = (hostTransaction host s).wr := by
  cases host with
  | none => rfl
  | some w =>
    rw [hostTransaction_word, hostTransaction_word]
    cases wordWrite w <;> rfl

/-- A byte that may be sent depends on the encoder and the parameters alone: the free value of an unwritten byte is never
sent (R131, U3). -/
theorem txByte_eq_encoder (hw : sendsUnwritten s = false) :
    txByte s = txByte { State.reset with tx := s.tx, cfg := s.cfg } := by
  by_cases hs : s.tx.state = .data
  · have hstored := read_txByte hs hw
    exact Option.some.inj
      (hstored.symm.trans (read_txByte (s := { State.reset with tx := s.tx, cfg := s.cfg }) hs hw))
  · cases hst : s.tx.state <;> simp only [txByte, hst]
    exact absurd hst hs

/-- The byte a busy encoder sends to a ready sink, from its own registers and the parameters (R114, R131). -/
def encoderSends (cfg : Config.Params) (t : Encoder) (ready : Bool) : Option Byte :=
  if t.state ≠ .idle ∧ ready = true then some (txByte { State.reset with tx := t, cfg := cfg }) else none

/-- It is the byte of every cycle that does not fault on an unwritten one. -/
theorem encoderSends_eq {ready : Bool} (hw : ¬ (ready = true ∧ sendsUnwritten s = true)) :
    (if s.tx.state ≠ .idle ∧ ready = true then some (txByte s) else none) = encoderSends s.cfg s.tx ready := by
  unfold encoderSends
  split
  · next hgo => rw [txByte_eq_encoder (by simpa [hgo.2] using hw)]
  · rfl

/-- The parser after any cycle, from its own registers, the parameters, the host word and the source (R117, R118). -/
theorem cycle_rx (h : cycle c s = .next s') :
    s'.rx =
      if c.rst then .reset
      else if (ctrlData c).getLsbD 7 then { Parser.reset with buf := s.rx.buf }
      else (rxNext s.cfg s.rx (if s.rx.state = .hold then none else rxOffer c) ((ctrlData c).getLsbD 0)
        ((ctrlData c).getLsbD 1)).rx := by
  rcases cycle_next h with ⟨hr, rfl⟩ | ⟨hr, h7, rd, -, rfl⟩ | ⟨⟨hr, h7⟩, -, rd, -, rfl⟩
  · rw [if_pos hr, hardReset_rx]
  · rw [hr, h7]
    rfl
  · rw [advance_rx, hr, h7]
    rfl

/-- The encoder after any cycle, from its own registers, the parameters, the host word and the sink (R117, R118). -/
theorem cycle_tx (h : cycle c s = .next s') :
    s'.tx =
      if c.rst then .reset
      else if (ctrlData c).getLsbD 7 then { Encoder.reset with buf := s.tx.buf }
      else (txNext s.cfg s.tx (encoderSends s.cfg s.tx c.txReady) ((ctrlData c).getLsbD 2)
        (hostTransaction c.host s).wr).tx := by
  rcases cycle_next h with ⟨hr, rfl⟩ | ⟨hr, h7, rd, -, rfl⟩ | ⟨⟨hr, h7⟩, hw, rd, -, rfl⟩
  · rw [if_pos hr, hardReset_tx]
  · rw [hr, h7]
    rfl
  · rw [advance_tx, encoderSends_eq hw, hr, h7]
    rfl

/-! ## SOFT_RESET -/

/-- A cycle with a SOFT_RESET write ends in the reset state with both buffers kept, whatever is offered and whether or not
the sink is ready (R118, R293). -/
theorem runCycle_softResetWrite (lo : BitVec 7) (o : Option Byte) {ready : Bool}
    (hw : ¬ (ready = true ∧ sendsUnwritten s = true)) :
    runCycle (opCtrl (1#1 ++ lo)) o ready s = .next { softReset s with
      out := ports (Config.writeReadData s.writes) s, writes := s.writes + 1 } := by
  have h7 : (1#1 ++ lo : Byte).getLsbD 7 = true := by
    simp only [BitVec.getLsbD_append]
    simp
  rw [runCycle_softReset (h := opCtrl (1#1 ++ lo)) (rd := 0) rfl hw h7]
  rfl

/-! ## A byte without effect -/

/-- RX_FLUSH comes before a byte transfer (R119, R303). -/
theorem rxNext_flush (cfg : Config.Params) (r : Parser) (rxIn : Option Byte) (ack : Bool) :
    rxNext cfg r rxIn ack true = rxFlush r { rx := clearPulses r } := rfl

/-- With RX_FLUSH, and in HOLD, the cycle does not see the byte offered (R113, R159, R303). -/
theorem advance_ignores_offer {h : HostOp} (hs : h.ctrl.getLsbD 1 = true ∨ s.rx.state = .hold) (o : Option Byte)
    (ready : Bool) (out : Outputs) : advance h o ready out s = advance h none ready out s := by
  rcases hs with hflush | hhold
  · simp only [advance, hflush, rxNext_flush]
  · simp only [advance, if_pos hhold]

/-- Nor does its outcome: the faults and SOFT_RESET do not look at the offer either. -/
theorem runCycle_ignores_offer {h : HostOp} (hs : h.ctrl.getLsbD 1 = true ∨ s.rx.state = .hold) (o : Option Byte)
    (ready : Bool) : runCycle h o ready s = runCycle h none ready s := by
  simp only [runCycle, advance_ignores_offer hs o]

/-! ## The statements -/

/-- Settles O8: the recorded ports are those of the start-of-cycle state, in a reset cycle and outside it. -/
theorem outputsFollowTheStartOfCycleState : Obligations.OutputsFollowTheStartOfCycleState := by
  intro c s t h
  rw [statusByte_frameValid, statusByte_txBusy, statusByte_errAny]
  rcases cycle_out h with ⟨hr, hout⟩ | ⟨hr, rd, hrd, hout⟩
  · simp [hout, hr, resetPorts, ports]
  · have hdriven : t.out.hRdata = driven (hostTransaction c.host s) rd s := by
      rw [hout]
      rfl
    have hidle : c.rst = true ∨ c.host = none → t.out.hRdata = 0 := by
      rintro (hrst | hnone)
      · cases hr.symm.trans hrst
      · rw [hdriven, driven_noAccess hnone hrd]
    have hread : ∀ w, c.host = some w → wordWrite w = false → memRead (wordAddr w) s = .ok t.out.hRdata :=
      fun w hw hwrite => hdriven ▸ driven_read hw hwrite hrd
    refine ⟨?_, ?_, ?_, ?_, ?_, ?_, ?_, ?_, hidle, fun _ => hread⟩ <;> simp [hout, hr, ports]

/-- Settles O9: each idle cycle clears the pulses, and there are none in a quiescent state. -/
theorem idleCycleClearsOnlyThePulses : Obligations.IdleCycleClearsOnlyThePulses := by
  intro cs s hne hcs
  obtain ⟨o, hrun⟩ := runCycles_idle hne hcs
  refine ⟨_, hrun, rfl, fun ⟨_, _, hsof, heof⟩ => ?_⟩
  exact congrArg (fun r => { s with rx := r }) (clearPulses_of_noPulse hsof heof)

/-- Settles O46: a busy encoder keeps its registers until the sink is ready, and the offered byte with them. -/
theorem offeredByteIsStable : Obligations.OfferedByteIsStable := by
  intro cs s t hbusy hcs hrun
  obtain ⟨htx, hcfg, hresets⟩ := runCycles_keeps_encoder hbusy hcs hrun
  exact ⟨htx, txByte_congr htx hcfg hresets⟩

/-- Settles O48: each engine's next registers are a function of its own registers and of what both runs share. -/
theorem enginesAreIndependent : Obligations.EnginesAreIndependent := by
  intro c1 c2 s1 s2 t1 t2 hrst hhost hcfg h1 h2
  refine ⟨fun hoffer hrx => ?_, fun hready htx => ?_⟩
  · rw [cycle_rx h1, cycle_rx h2, hrst, ctrlData_congr hhost, hcfg, hoffer, hrx]
  · rw [cycle_tx h1, cycle_tx h2, hrst, ctrlData_congr hhost, hhost, hostTransaction_wr_congr c2.host s2 s1, hcfg, hready,
      htx]

/-- Settles O23: SOFT_RESET and `rst` are decided before anything of the cycle reaches the engines. -/
theorem softResetOverridesItsCycle : Obligations.SoftResetOverridesItsCycle := by
  intro s rest lo c
  refine ⟨?_, fun hin hhost => ⟨fun hr hw => ?_, fun hr => ?_⟩⟩
  · exact (exec_of_encode_host rfl s).trans (runCycle_softResetWrite lo none (by simp))
  · rw [step_cycle hin, cycle, hr, hhost, hostTransaction_write]
    exact runCycle_softResetWrite (s := { s with inputs := rest }) lo (rxOffer c) hw
  · rw [step_cycle hin, cycle, if_pos hr]
    rfl

/-- Settles O50: RX_FLUSH comes before the byte, and HOLD takes none. -/
theorem flushedAndUntakenBytesHaveNoEffect : Obligations.FlushedAndUntakenBytesHaveNoEffect := by
  intro c s hr hs
  rw [← hostTransaction_ctrl c s] at hs
  simp only [cycle, hr, runCycle_ignores_offer hs (rxOffer c)]
  rfl

end Sys2Proof.Machine
end

section
/-! PROOFS. The family 41_encoder.md: the checksum laws (R142), TX_START (R132), the transfers of a frame byte by byte (R133
to R140), and what a parser makes of the frame that was sent (R144). -/

namespace Sys2Proof.Machine

variable {c : CycleIn} {s s' : State} {t : Encoder} {p : List Byte}

/-! ## The frame and its checksum -/

/-- A list closed by its own checksum sums to zero (R142). -/
theorem xorBytes_snoc_self (l : List Byte) : xorBytes (l ++ [xorBytes l]) = 0 := by
  simp [xorBytes_append, xorBytes]

/-- After the preamble and the direction come the summed bytes and their checksum (R80, R87). -/
theorem encodeFrame_drop_three (cfg : Config.Params) (b : Byte) (p : List Byte) :
    (encodeFrame cfg b p).drop 3 = (BitVec.ofNat 8 p.length :: b :: p) ++ [checksum b p] := rfl

theorem encodeFrame_length (cfg : Config.Params) (b : Byte) (p : List Byte) :
    (encodeFrame cfg b p).length = 6 + p.length := by
  simp [encodeFrame, wireFrame]
  omega

theorem encodeFrame_getLast? (cfg : Config.Params) (b : Byte) (p : List Byte) :
    (encodeFrame cfg b p).getLast? = some (checksum b p) := List.getLast?_concat

theorem encodeFrame_payload (cfg : Config.Params) (b : Byte) {i : Nat} (hi : i < p.length) :
    (encodeFrame cfg b p)[5 + i]? = some p[i] := by
  simp [encodeFrame, wireFrame, Nat.add_comm 5 i, List.getElem?_append_left hi, hi]

theorem encodeFrame_checksum (cfg : Config.Params) (b : Byte) (p : List Byte) :
    (encodeFrame cfg b p)[5 + p.length]? = some (checksum b p) := by
  simp [encodeFrame, wireFrame, Nat.add_comm 5 p.length]

/-- The bytes a buffer holds are determined by their number. -/
theorem Memory.holds_unique {m : Memory} {q : List Byte} (hp : m.holds p) (hq : m.holds q)
    (hlen : p.length = q.length) : p = q :=
  List.ext_getElem hlen fun i hi hi' => Option.some.inj ((hp i hi).symm.trans (hq i hi'))

/-! ## TX_START -/

/-- TX_START in IDLE, with a length within the capacity (R132). -/
theorem txStart_starts {cfg : Config.Params} (hs : t.state = .idle) (hl : t.len ≤ cfg.maxPayload) (x : TxStep) :
    txStart cfg t x = { x with tx := { x.tx with state := .pre1, acc := 0, idx := 0 } } :=
  (if_neg (not_not.2 hs)).trans (if_neg (BitVec.not_lt.2 hl))

/-- TX_START while busy, or with a length beyond the capacity (R132, R267). -/
theorem txStart_refused {cfg : Config.Params} (h : t.state ≠ .idle ∨ cfg.maxPayload < t.len) (x : TxStep) :
    txStart cfg t x = raiseTx x := by
  unfold txStart
  split
  · rfl
  · next hs => exact if_pos (h.resolve_left hs)

/-- The CTRL data of the row TX_START with bits 1:0 clear commands TX_START and nothing else (R192). -/
theorem ctrlTxStartData_bits (hi : BitVec 4) : (ctrlTxStartData hi 0).getLsbD 7 = false ∧
    (ctrlTxStartData hi 0).getLsbD 2 = true ∧ (ctrlTxStartData hi 0).getLsbD 1 = false ∧
    (ctrlTxStartData hi 0).getLsbD 0 = false := by
  revert hi
  decide

/-- A CTRL write of TX_START alone is TX_START of the encoder, with the flag it may raise (R132, R192). -/
theorem hostCycle_start {d : Byte} (h7 : d.getLsbD 7 = false) (h2 : d.getLsbD 2 = true) (h1 : d.getLsbD 1 = false)
    (h0 : d.getLsbD 0 = false) (s : State) : hostCycle (opCtrl d) s = .next { writeNext s with
      tx := (txStart s.cfg s.tx { tx := s.tx }).tx, err := s.err ||| (txStart s.cfg s.tx { tx := s.tx }).ev } := by
  rw [hostCycle, runCycle_advance (h := opCtrl d) (rd := 0) rfl (by simp) h7]
  simp only [advance, opCtrl, h2, h1, h0, ite_self, rxNext_quiet]
  simp [txNext_idle, nextErr_set, writeNext, quietNext, clearPulses, driven, countWrites]

/-- So is the row TX_START. -/
theorem exec_ctrlTxStart (hi : BitVec 4) (s : State) :
    exec (.ctrlTxStart hi 0) s = .next { writeNext s with
      tx := (txStart s.cfg s.tx { tx := s.tx }).tx, err := s.err ||| (txStart s.cfg s.tx { tx := s.tx }).ev } := by
  obtain ⟨h7, h2, h1, h0⟩ := ctrlTxStartData_bits hi
  exact hostCycle_start h7 h2 h1 h0 s

theorem exec_ctrlTxStart_starts (hi : BitVec 4) (hs : s.tx.state = .idle) (hl : s.tx.len ≤ s.cfg.maxPayload) :
    exec (.ctrlTxStart hi 0) s = .next { writeNext s with tx := { s.tx with state := .pre1, acc := 0, idx := 0 } } := by
  rw [exec_ctrlTxStart, txStart_starts hs hl]
  simp [writeNext, quietNext]

theorem exec_ctrlTxStart_refused (hi : BitVec 4) (h : s.tx.state ≠ .idle ∨ s.cfg.maxPayload < s.tx.len) :
    exec (.ctrlTxStart hi 0) s = .next { writeNext s with err := s.err ||| 0b10000 } := by
  rw [exec_ctrlTxStart, txStart_refused h]
  simp [writeNext, quietNext]

/-- With TX_START in its CTRL data, a cycle writes no encoder input (R191). -/
theorem hostTransaction_wr_of_start (s : State) (hstart : (ctrlData c).getLsbD 2 = true) :
    (hostTransaction c.host s).wr = none :=
  hostTransaction_wr_none s fun h0 => by simp [h0] at hstart

/-- A TX_START that finds the encoder idle starts it, whatever else its cycle holds (R132). -/
theorem cycle_starts (hs : s.tx.state = .idle) (hl : s.tx.len ≤ s.cfg.maxPayload) (hn : noReset c)
    (hstart : (ctrlData c).getLsbD 2 = true) (h : cycle c s = .next s') :
    s'.tx = { s.tx with state := .pre1, acc := 0, idx := 0 } := by
  obtain ⟨-, rd, -, rfl⟩ := cycle_noReset hn h
  rw [advance_tx, if_neg fun hgo => hgo.1 hs, txNext_idle, hstart, hostTransaction_wr_of_start s hstart]
  exact congrArg TxStep.tx (txStart_starts hs hl _)

/-- A TX_START that finds the encoder busy leaves TXERR set, whatever else its cycle holds (R132, R299). -/
theorem cycle_txerr_of_busyStart (hb : s.tx.state ≠ .idle) (hn : noReset c)
    (hstart : (ctrlData c).getLsbD 2 = true) (h : cycle c s = .next s') : s'.err.getLsbD 4 = true := by
  obtain ⟨-, rd, -, rfl⟩ := cycle_noReset hn h
  rw [advance_err, hstart, hostTransaction_wr_of_start s hstart]
  refine nextErr_getLsbD_of_evTx ?_
  simp [txNext, txStart_refused (.inl hb)]

/-! ## A transfer -/

/-- A busy encoder puts the byte of its state on the port (R114, R131). -/
theorem ports_txData_busy (rd : Byte) (hb : s.tx.state ≠ .idle) : (ports rd s).txData = txByte s := if_pos hb

/-- A transfer alone in its cycle runs the arm of the encoder's state, and only the pulses change besides (R130). -/
theorem runCycle_transfer (hb : s.tx.state ≠ .idle) (hw : sendsUnwritten s = false) :
    runCycle opNop none true s = .next { quietNext 0 s with tx := (txArm (txByte s) s.tx { tx := s.tx }).tx } := by
  rw [runCycle_advance (rd := 0) rfl (by simp [hw]) rfl]
  simp [advance, hb, opNop, rxNext_quiet, txNext, txArm_ev, clearPulses, quietNext, driven, countWrites]

/-- A transmit row carries the byte offered and runs its arm, in the state that selects it (R91, R133 to R139). -/
theorem transfer_of_decodeTx {i : Instr} (hi : decodeTx s.tx.state = .ok i) (hw : sendsUnwritten s = false) :
    (ports 0 s).txData = txByte s ∧
      exec i s = .next { quietNext 0 s with tx := (txArm (txByte s) s.tx { tx := s.tx }).tx } := by
  have hb : s.tx.state ≠ .idle := fun hs => by
    rw [hs] at hi
    cases hi
  exact ⟨ports_txData_busy 0 hb, (exec_of_decodeTx hi).trans (runCycle_transfer hb hw)⟩

/-- Outside DATA a transfer never sends an unwritten byte (U3). -/
theorem sendsUnwritten_of_not_data (hs : s.tx.state ≠ .data) : sendsUnwritten s = false := by
  simp [sendsUnwritten, hs]

/-- A busy encoder sends the byte it offers when the sink is ready, whatever the host does short of a reset (R119, R140). -/
theorem cycle_transfer (hb : s.tx.state ≠ .idle) (hn : noReset c) (hready : c.txReady = true)
    (h : cycle c s = .next s') : s'.tx = (txArm (txByte s) s.tx { tx := s.tx }).tx := by
  obtain ⟨-, rd, -, rfl⟩ := cycle_noReset hn h
  rw [advance_tx, txNext_busy _ _ _ _ _ hb]
  simp [hb, hready]

/-- The checksum byte ends the frame (R139). -/
theorem cycle_transfer_csum (hs : s.tx.state = .csum) (hn : noReset c) (hready : c.txReady = true)
    (h : cycle c s = .next s') : s'.tx = { s.tx with csum := s.tx.acc, state := .idle } := by
  rw [cycle_transfer (by simp [hs]) hn hready h]
  simp only [txArm, hs, txCsum]

/-! ## The encoder within a frame -/

/-- The number of bytes of its frame that the encoder has sent; in IDLE after the frame, all of them. -/
def Encoder.position (t : Encoder) : Nat :=
  match t.state with
  | .pre1 => 0
  | .pre2 => 1
  | .dir => 2
  | .len => 3
  | .cmd => 4
  | .data => 5 + t.idx.toNat
  | .csum => 5 + t.len.toNat
  | .idle => 6 + t.len.toNat

theorem Encoder.position_idle (hs : t.state = .idle) : t.position = 6 + t.len.toNat := by
  simp only [Encoder.position, hs]

/-- Each transfer advances the position by one byte (R133 to R139). -/
theorem Encoder.position_txArm {cfg : Config.Params} (b : Byte) (hb : t.state ≠ .idle) (hok : encoderStateOk cfg t) :
    (txArm b t { tx := t }).tx.position = t.position + 1 := by
  unfold txArm
  split
  · next hs => exact absurd hs hb
  · next hs => simp only [txPre1, Encoder.position, hs]
  · next hs => simp only [txPre2, Encoder.position, hs]
  · next hs => simp only [txDir, Encoder.position, hs]
  · next hs => simp only [txLen, Encoder.position, hs]
  · next hs =>
    obtain ⟨-, -, hidx⟩ := (encoderStateOk_cmd hs).1 hok
    by_cases h0 : t.len = 0#8 <;> simp [txCmd, Encoder.position, hs, hidx, h0]
  · next hs =>
    obtain ⟨-, hidx, -⟩ := (encoderStateOk_data hs).1 hok
    by_cases hl : t.idx + 1 = t.len
    · simp only [txData, Encoder.position, hs, if_pos hl]
      bv_omega
    · simp only [txData, Encoder.position, hs, if_neg hl]
      bv_omega
  · next hs => simp only [txCsum, Encoder.position, hs]; omega

/-- The encoder is sending the frame of payload `p`: busy, loaded with it, and its registers as its state implies. -/
structure Sending (p : List Byte) (s : State) : Prop where
  busy : s.tx.state ≠ .idle
  len : s.tx.len = BitVec.ofNat 8 p.length
  fits : p.length ≤ s.cfg.maxPayload.toNat
  holds : s.tx.buf.holds p
  ok : encoderStateOk s.cfg s.tx

namespace Sending

theorem len_toNat (h : Sending p s) : s.tx.len.toNat = p.length := by
  rw [h.len]
  exact Nat.mod_eq_of_lt (Nat.lt_of_le_of_lt h.fits s.cfg.maxPayload.isLt)

/-- In DATA the index is one of the payload. -/
theorem idx_lt (h : Sending p s) (hs : s.tx.state = .data) : s.tx.idx.toNat < p.length := by
  obtain ⟨-, hidx, -⟩ := (encoderStateOk_data hs).1 h.ok
  exact h.len_toNat ▸ hidx

/-- In CSUM the running checksum is that of the frame (R38). -/
theorem acc_csum (h : Sending p s) (hs : s.tx.state = .csum) : s.tx.acc = checksum s.tx.cmd p := by
  obtain ⟨-, hidx, q, hq, hold, hacc⟩ := (encoderStateOk_csum hs).1 h.ok
  have hqp : q = p := Memory.holds_unique hold h.holds (by rw [hq, hidx, h.len_toNat])
  rw [hacc, hqp, h.len]
  rfl

/-- The byte offered is the next one of the frame (R131, R140). -/
theorem offers (h : Sending p s) : (encodeFrame s.cfg s.tx.cmd p)[s.tx.position]? = some (txByte s) := by
  cases hs : s.tx.state <;> simp only [Encoder.position, txByte, hs]
  case pre1 | pre2 | dir | cmd => rfl
  case len =>
    rw [h.len]
    rfl
  case data =>
    rw [encodeFrame_payload _ _ (h.idx_lt hs), txBufByte, h.holds _ (h.idx_lt hs), Option.getD_some]
  case csum => rw [h.len_toNat, encodeFrame_checksum, h.acc_csum hs]
  case idle => exact absurd hs h.busy

/-- A frame being sent is short of its last byte in CSUM alone. -/
theorem csum_of_position (h : Sending p s) (hpos : s.tx.position = 5 + p.length) : s.tx.state = .csum := by
  unfold Encoder.position at hpos
  split at hpos
  case h_6 hs => exact absurd hpos (by have := h.idx_lt hs; omega)
  case h_7 hs => exact hs
  case h_8 hs => exact absurd hs h.busy
  all_goals omega

/-- What a cycle short of a reset does to the frame being sent: it sends the byte offered where the sink is ready, and keeps
the command, the length and the parameters; the frame goes on as long as the encoder is busy. -/
theorem after_cycle (h : Sending p s) (hn : noReset c) (hc : cycle c s = .next s') :
    s'.tx.position = s.tx.position + c.txReady.toNat ∧ s'.cfg = s.cfg ∧ s'.tx.cmd = s.tx.cmd ∧
      s'.tx.len = s.tx.len ∧ (s'.tx.state ≠ .idle → Sending p s') := by
  have hmove := cycle_encoderMove hn hc
  have hcfg := cycle_cfg hc
  obtain ⟨hlen, hcmd, hbuf⟩ := hmove.keeps_inputs h.busy
  refine ⟨?_, hcfg, hcmd, hlen, fun hb => ⟨hb, hlen.trans h.len, hcfg ▸ h.fits, hbuf ▸ h.holds,
    hcfg ▸ hmove.keeps_encoderStateOk h.ok⟩⟩
  cases hr : c.txReady with
  | true => rw [cycle_transfer h.busy hn hr hc, Encoder.position_txArm _ h.busy h.ok, Bool.toNat_true]
  | false =>
    obtain ⟨htx, -⟩ := cycle_keeps_encoder h.busy hn hr hc
    rw [htx, Bool.toNat_false, Nat.add_zero]

/-- The frame goes on where bytes of it are left. -/
theorem of_position (h : Sending p s) (hn : noReset c) (hc : cycle c s = .next s')
    (hpos : s.tx.position + c.txReady.toNat < 6 + p.length) : Sending p s' := by
  obtain ⟨hnext, -, -, hlen, hgo⟩ := h.after_cycle hn hc
  refine hgo fun hs => ?_
  rw [Encoder.position_idle hs, hlen, h.len_toNat] at hnext
  omega

end Sending

/-! ## Runs of the encoder -/

theorem readyCycles_cons (c : CycleIn) (cs : List CycleIn) :
    readyCycles (c :: cs) = c.txReady.toNat + readyCycles cs := by
  cases h : c.txReady <;> simp [readyCycles, h, Nat.add_comm]

theorem readyCycles_append (xs ys : List CycleIn) : readyCycles (xs ++ ys) = readyCycles xs + readyCycles ys := by
  simp [readyCycles]

theorem sinkBytes_cons (h : cycle c s = .next s') (cs : List CycleIn) :
    sinkBytes (c :: cs) s = (sinkTakes c s).toList ++ sinkBytes cs s' := by
  simp only [sinkBytes, h]

/-- The sink takes nothing while it is not ready (R114). -/
theorem sinkBytes_of_not_ready {cs : List CycleIn} (hcs : readyCycles cs = 0) : sinkBytes cs s = [] := by
  induction cs generalizing s with
  | nil => rfl
  | cons c cs ih =>
    rw [readyCycles_cons, Nat.add_eq_zero_iff] at hcs
    obtain ⟨hc, hcs⟩ := hcs
    unfold sinkBytes
    split
    · simpa [sinkTakes, Bool.toNat_eq_zero.1 hc] using ih hcs
    · rfl
    · rfl

/-- The sink takes the byte of a busy encoder where it is ready (R114). -/
theorem sinkTakes_busy (hb : s.tx.state ≠ .idle) (hn : noReset c) :
    sinkTakes c s = if c.txReady then some (txByte s) else none := by
  simp [sinkTakes, hn.1, hb]

namespace Sending

/-- The bytes a run delivers are the next ones of the frame, one per ready cycle, by induction over the cycles. -/
theorem sinkBytes_eq {cs : List CycleIn} (h : Sending p s) (hcs : ∀ c ∈ cs, noReset c)
    (hcount : s.tx.position + readyCycles cs ≤ 6 + p.length) (hrun : runCycles cs s = .next s') :
    sinkBytes cs s = ((encodeFrame s.cfg s.tx.cmd p).drop s.tx.position).take (readyCycles cs) := by
  induction cs generalizing s with
  | nil => rfl
  | cons c cs ih =>
    obtain ⟨u, hu, hrun⟩ := runCycles_cons hrun
    obtain ⟨hn, hcs⟩ := List.forall_mem_cons.1 hcs
    obtain ⟨hpos, hcfg, hcmd, -, -⟩ := h.after_cycle hn hu
    rw [readyCycles_cons, ← Nat.add_assoc] at hcount
    have hrest : sinkBytes cs u = ((encodeFrame s.cfg s.tx.cmd p).drop u.tx.position).take (readyCycles cs) := by
      by_cases h0 : readyCycles cs = 0
      · rw [h0, List.take_zero, sinkBytes_of_not_ready h0]
      · rw [ih (h.of_position hn hu (by omega)) hcs (by omega) hrun, hcfg, hcmd]
    rw [sinkBytes_cons hu, sinkTakes_busy h.busy hn, hrest, hpos, readyCycles_cons]
    cases c.txReady with
    | false => simp
    | true =>
      obtain ⟨hlt, hbyte⟩ := List.getElem?_eq_some_iff.1 h.offers
      simp [List.drop_eq_getElem_cons hlt, hbyte, Nat.add_comm 1]

/-- A run that leaves bytes of the frame unsent leaves the encoder sending it, one byte further per ready cycle. -/
theorem after_run {cs : List CycleIn} (h : Sending p s) (hcs : ∀ c ∈ cs, noReset c)
    (hcount : s.tx.position + readyCycles cs < 6 + p.length) (hrun : runCycles cs s = .next s') :
    Sending p s' ∧ s'.tx.position = s.tx.position + readyCycles cs ∧ s'.tx.cmd = s.tx.cmd := by
  induction cs generalizing s with
  | nil =>
    cases hrun
    exact ⟨h, rfl, rfl⟩
  | cons c cs ih =>
    obtain ⟨u, hu, hrun⟩ := runCycles_cons hrun
    obtain ⟨hn, hcs⟩ := List.forall_mem_cons.1 hcs
    obtain ⟨hpos, -, hcmd, -, -⟩ := h.after_cycle hn hu
    rw [readyCycles_cons, ← Nat.add_assoc] at hcount
    obtain ⟨hsend, hpos', hcmd'⟩ := ih (h.of_position hn hu (by omega)) hcs (by omega) hrun
    exact ⟨hsend, by rw [hpos', hpos, readyCycles_cons, Nat.add_assoc], hcmd'.trans hcmd⟩

end Sending

/-- TX_START begins the frame of the payload that the idle encoder is loaded with (R132). -/
theorem sending_of_start (hs : s.tx.state = .idle) (hlen : s.tx.len = BitVec.ofNat 8 p.length)
    (hfits : p.length ≤ s.cfg.maxPayload.toNat) (hold : s.tx.buf.holds p) (hn : noReset c)
    (hstart : (ctrlData c).getLsbD 2 = true) (h : cycle c s = .next s') :
    Sending p s' ∧ s'.tx.position = 0 ∧ s'.tx.cmd = s.tx.cmd ∧ s'.cfg = s.cfg := by
  have hl : s.tx.len ≤ s.cfg.maxPayload := by
    rw [hlen, BitVec.le_def]
    exact Nat.le_trans (Nat.mod_le _ _) hfits
  have hcfg := cycle_cfg h
  have htx := cycle_starts hs hl hn hstart h
  have hok := (cycle_encoderMove hn h).keeps_encoderStateOk (encoderStateOk_idle hs)
  refine ⟨⟨?_, ?_, hcfg ▸ hfits, ?_, hcfg ▸ hok⟩, ?_, ?_, hcfg⟩ <;> rw [htx]
  · exact nofun
  · exact hlen
  · exact hold
  · rfl

/-- The run that ends with the last transfer of the frame leaves the encoder idle, with the checksum kept (R139). -/
theorem Sending.finishes {cs : List CycleIn} (h : Sending p s) (hcs : ∀ c ∈ cs, noReset c)
    (hcount : s.tx.position + readyCycles cs = 6 + p.length) (hlast : cs.getLast?.map CycleIn.txReady = some true)
    (hrun : runCycles cs s = .next s') : s'.tx.state = .idle ∧ s'.tx.csum = checksum s.tx.cmd p := by
  rcases List.eq_nil_or_concat cs with rfl | ⟨xs, x, rfl⟩
  · cases hlast
  · rw [List.concat_eq_append] at *
    have hx : x.txReady = true := by simpa using hlast
    have hone : readyCycles [x] = 1 := by simp [readyCycles, hx]
    rw [readyCycles_append, hone] at hcount
    rw [runCycles_append] at hrun
    simp only [List.mem_append, List.mem_singleton] at hcs
    cases hxs : runCycles xs s with
    | fault f => simp [hxs] at hrun
    | refused r => simp [hxs] at hrun
    | next u =>
      rw [hxs] at hrun
      obtain ⟨v, hv, hnil⟩ := runCycles_cons hrun
      cases hnil
      obtain ⟨hu, hpos, hcmd⟩ := h.after_run (fun c hc => hcs c (.inl hc)) (by omega) hxs
      have hcsum := hu.csum_of_position (by omega)
      rw [cycle_transfer_csum hcsum (hcs x (.inr rfl)) hx hv]
      exact ⟨rfl, by rw [hu.acc_csum hcsum, hcmd]⟩

/-! ## A parser that is fed a frame -/

/-- The state after a cycle in which the source offers `b` and nothing else happens. -/
def State.fed (s : State) (b : Byte) : State := advance opNop (some b) false (ports 0 s) s

theorem cycle_lineRx (b : Byte) (s : State) : cycle (lineRx b) s = .next (s.fed b) :=
  (cycle_rxByte b s).trans (runCycle_advance (rd := 0) rfl (by simp) rfl)

/-- A run of fed bytes never stops. -/
theorem runCycles_feed (bs : List Byte) (s : State) : runCycles (feed bs) s = .next (bs.foldl State.fed s) := by
  induction bs generalizing s with
  | nil => rfl
  | cons b bs ih => exact (runCycles_cons_of_next (cycle_lineRx b s) _).trans (ih (s.fed b))

/-- Outside HOLD a byte is accepted (R113): where its arm raises nothing, the flags stay. -/
theorem fed_quietly {b : Byte} {r' : Parser} (hs : s.rx.state ≠ .hold)
    (h : rxArm s.cfg b s.rx { rx := clearPulses s.rx } = { rx := r' }) :
    (s.fed b).rx = r' ∧ (s.fed b).err = s.err := by
  have hnext : rxNext s.cfg s.rx (some b) false false = { rx := r' } := h
  simp [State.fed, advance, opNop, hs, hnext, txNext]

section Arms

variable {cfg : Config.Params} {r : Parser}

theorem rxArm_hunt (hs : r.state = .hunt) (x : RxStep) :
    rxArm cfg cfg.pre1 r x = { x with rx := { x.rx with state := .pre2 } } := by
  simp only [rxArm, hs, rxHunt, if_true]

theorem rxArm_pre2 (hs : r.state = .pre2) (x : RxStep) :
    rxArm cfg cfg.pre2 r x = { x with rx := { x.rx with state := .dir, acc := 0, idx := 0, sofQ := true } } := by
  simp only [rxArm, hs, rxPre2, if_true]

theorem rxArm_dir (hs : r.state = .dir) (b : Byte) (x : RxStep) :
    rxArm cfg b r x = { x with rx := { x.rx with dir := b, state := .len } } := by
  simp only [rxArm, hs, rxDir]

theorem rxArm_len (hs : r.state = .len) {b : Byte} (hb : b ≤ cfg.maxPayload) (x : RxStep) :
    rxArm cfg b r x = { x with rx := { x.rx with len := b, acc := r.acc ^^^ b, state := .cmd } } := by
  simp only [rxArm, hs, rxLen, if_neg (BitVec.not_lt.2 hb)]

theorem rxArm_cmd (hs : r.state = .cmd) (b : Byte) (x : RxStep) :
    rxArm cfg b r x = { x with rx := { x.rx with
      cmd := b, acc := r.acc ^^^ b, idx := 0, state := if r.len = 0 then .csum else .data } } := by
  simp only [rxArm, hs, rxCmd]

theorem rxArm_data (hs : r.state = .data) (b : Byte) (x : RxStep) :
    rxArm cfg b r x = { x with rx := { x.rx with
      buf := x.rx.buf.write r.idx.toNat b, acc := r.acc ^^^ b, idx := r.idx + 1
      state := if r.idx + 1 = r.len then .csum else .data } } := by
  simp only [rxArm, hs, rxData]

theorem rxArm_csum_accepts (hs : r.state = .csum) (x : RxStep) :
    rxArm cfg r.acc r x = { x with rx := { x.rx with csum := r.acc, state := .hold, result := .ok, eofQ := true } } := by
  simp only [rxArm, hs, rxCsum, if_true]

end Arms

/-- The parser has accepted the header and the payload bytes `q` of a frame with direction `dir`, length `n` and command
`b`: it awaits the next payload byte, or the checksum after the last (R156, R157). -/
structure Collecting (dir n b : Byte) (q : List Byte) (r : Parser) : Prop where
  state : r.state = if q.length = n.toNat then .csum else .data
  dir : r.dir = dir
  len : r.len = n
  cmd : r.cmd = b
  idx : r.idx = BitVec.ofNat 8 q.length
  acc : r.acc = xorBytes (n :: b :: q)
  holds : r.buf.holds q

/-- The preamble starts a frame (R152, R153). -/
theorem fed_preamble (hs : s.rx.state = .hunt) :
    ((s.fed s.cfg.pre1).fed s.cfg.pre2).rx.state = .dir ∧ ((s.fed s.cfg.pre1).fed s.cfg.pre2).rx.acc = 0 ∧
      ((s.fed s.cfg.pre1).fed s.cfg.pre2).err = s.err := by
  obtain ⟨h1, e1⟩ := fed_quietly (by simp [hs]) (rxArm_hunt hs _)
  obtain ⟨h2, e2⟩ :=
    fed_quietly (s := s.fed s.cfg.pre1) (b := s.cfg.pre2) (by simp [h1]) (rxArm_pre2 (by rw [h1]) _)
  rw [h2]
  exact ⟨rfl, rfl, e2.trans e1⟩

/-- The direction and the length are captured (R154, R155). -/
theorem fed_direction_length {dir n : Byte} (hs : s.rx.state = .dir) (hacc : s.rx.acc = 0)
    (hn : n ≤ s.cfg.maxPayload) :
    ((s.fed dir).fed n).rx.state = .cmd ∧ ((s.fed dir).fed n).rx.dir = dir ∧ ((s.fed dir).fed n).rx.len = n ∧
      ((s.fed dir).fed n).rx.acc = n ∧ ((s.fed dir).fed n).err = s.err := by
  obtain ⟨h1, e1⟩ := fed_quietly (by simp [hs]) (rxArm_dir hs dir _)
  obtain ⟨h2, e2⟩ := fed_quietly (s := s.fed dir) (by simp [h1]) (rxArm_len (by rw [h1]) hn _)
  rw [h2, h1]
  exact ⟨rfl, rfl, rfl, by simp [hacc], e2.trans e1⟩

/-- The command ends the header (R156). -/
theorem collecting_of_command {n : Byte} (hs : s.rx.state = .cmd) (hlen : s.rx.len = n) (hacc : s.rx.acc = n)
    (b : Byte) : Collecting s.rx.dir n b [] (s.fed b).rx ∧ (s.fed b).err = s.err := by
  obtain ⟨hrx, herr⟩ := fed_quietly (by simp [hs]) (rxArm_cmd hs b _)
  refine ⟨?_, herr⟩
  rw [hrx]
  refine ⟨?_, rfl, hlen, rfl, rfl, ?_, Memory.holds_nil _⟩
  · have h0 : s.rx.len = 0 ↔ ([] : List Byte).length = n.toNat := by
      rw [hlen, List.length_nil]
      bv_omega
    simp only [h0]
  · simp [hacc, xorBytes]

/-- The header of a frame within the capacity, from HUNT (R152 to R156). -/
theorem collecting_of_header {dir n b : Byte} (hs : s.rx.state = .hunt) (hn : n ≤ s.cfg.maxPayload) :
    Collecting dir n b [] ([s.cfg.pre1, s.cfg.pre2, dir, n, b].foldl State.fed s).rx ∧
      ([s.cfg.pre1, s.cfg.pre2, dir, n, b].foldl State.fed s).err = s.err := by
  simp only [List.foldl_cons, List.foldl_nil]
  obtain ⟨hdir, hacc, herr⟩ := fed_preamble hs
  obtain ⟨hcmd, hd, hlen, hacc', herr'⟩ := fed_direction_length (dir := dir) hdir hacc hn
  obtain ⟨hcol, herr''⟩ := collecting_of_command hcmd hlen hacc' b
  rw [hd] at hcol
  exact ⟨hcol, herr''.trans (herr'.trans herr)⟩

/-- The next payload byte (R157). -/
theorem Collecting.next {dir n b x : Byte} {q : List Byte} (h : Collecting dir n b q s.rx) (hq : q.length < n.toNat) :
    Collecting dir n b (q ++ [x]) (s.fed x).rx ∧ (s.fed x).err = s.err := by
  have hs : s.rx.state = .data := h.state.trans (if_neg (Nat.ne_of_lt hq))
  have hidx : s.rx.idx.toNat = q.length := by
    rw [h.idx]
    exact Nat.mod_eq_of_lt (Nat.lt_trans hq n.isLt)
  obtain ⟨hrx, herr⟩ := fed_quietly (by simp [hs]) (rxArm_data hs x _)
  refine ⟨?_, herr⟩
  rw [hrx]
  refine ⟨?_, h.dir, h.len, h.cmd, ?_, ?_, ?_⟩
  · have hlast : s.rx.idx + 1 = s.rx.len ↔ (q ++ [x]).length = n.toNat := by
      rw [h.len, List.length_append, List.length_singleton, ← hidx]
      bv_omega
    simp only [hlast]
  · simp [h.idx, BitVec.ofNat_add]
  · rw [h.acc, ← List.cons_append, ← List.cons_append, xorBytes_append]
    simp [xorBytes]
  · exact hidx ▸ Memory.holds_write h.holds

/-- The payload bytes, by induction over them. -/
theorem Collecting.payload {dir n b : Byte} {q bs : List Byte} (h : Collecting dir n b q s.rx)
    (hlen : q.length + bs.length ≤ n.toNat) :
    Collecting dir n b (q ++ bs) (bs.foldl State.fed s).rx ∧ (bs.foldl State.fed s).err = s.err := by
  induction bs generalizing q s with
  | nil => exact ⟨(List.append_nil q).symm ▸ h, rfl⟩
  | cons x bs ih =>
    rw [List.length_cons] at hlen
    obtain ⟨hx, herr⟩ := h.next (x := x) (by omega)
    obtain ⟨hbs, herr'⟩ := ih hx (by rw [List.length_append, List.length_singleton]; omega)
    rw [List.append_assoc, List.singleton_append] at hbs
    exact ⟨hbs, herr'.trans herr⟩

/-- The matching checksum byte makes the parser hold the frame, with its fields as collected (R158). -/
theorem Collecting.accepts {dir n b : Byte} {q : List Byte} (h : Collecting dir n b q s.rx) (hq : q.length = n.toNat) :
    (s.fed (xorBytes (n :: b :: q))).rx =
        { clearPulses s.rx with csum := s.rx.acc, state := .hold, result := .ok, eofQ := true } ∧
      (s.fed (xorBytes (n :: b :: q))).err = s.err := by
  have hs : s.rx.state = .csum := h.state.trans (if_pos hq)
  rw [← h.acc]
  exact fed_quietly (by simp [hs]) (rxArm_csum_accepts hs _)

/-- A frame within the capacity, fed to a parser in HUNT, is held with its fields, and raises no flag (R144, R166). -/
theorem runCycles_feed_wireFrame {dir b : Byte} (hs : s.rx.state = .hunt) (hfits : p.length ≤ s.cfg.maxPayload.toNat) :
    ∃ t, runCycles (feed (wireFrame s.cfg dir b p)) s = .next t ∧ t.rx.state = .hold ∧ t.rx.result = .ok ∧
      t.rx.dir = dir ∧ t.rx.len = BitVec.ofNat 8 p.length ∧ t.rx.cmd = b ∧ t.rx.buf.holds p ∧ t.err = s.err := by
  have hn : (BitVec.ofNat 8 p.length).toNat = p.length :=
    Nat.mod_eq_of_lt (Nat.lt_of_le_of_lt hfits s.cfg.maxPayload.isLt)
  obtain ⟨hhead, eh⟩ :=
    collecting_of_header (dir := dir) (n := BitVec.ofNat 8 p.length) (b := b) hs (by rw [BitVec.le_def, hn]; exact hfits)
  obtain ⟨hpay, ep⟩ := hhead.payload (bs := p) (by rw [hn, List.length_nil, Nat.zero_add])
  obtain ⟨hrx, ec⟩ := hpay.accepts hn.symm
  refine ⟨_, runCycles_feed _ s, ?_⟩
  rw [wireFrame, List.foldl_append, List.foldl_append, checksum, List.foldl_cons, List.foldl_nil]
  rw [List.nil_append] at hrx ec hpay
  rw [hrx]
  exact ⟨rfl, rfl, hpay.dir, hpay.len, hpay.cmd, hpay.holds, ec.trans (ep.trans eh)⟩

/-! ## The statements -/

/-- Settles O51: the busy encoder refuses the command, and sends the checksum byte all the same. -/
theorem startInTheChecksumCycleIsRefused : Obligations.StartInTheChecksumCycleIsRefused := by
  intro s t c hs hn hstart hready h
  have htx := cycle_transfer_csum hs hn hready h
  refine ⟨htx, cycle_txerr_of_busyStart (by simp [hs]) hn hstart h, fun hl => ?_⟩
  exact ⟨_, exec_ctrlTxStart_starts 0 (by rw [htx]) hl, rfl⟩

/-- Settles O54: TX_START begins the frame, and every ready cycle sends the next byte of it. -/
theorem encoderEmitsExactlyTheFrame : Obligations.EncoderEmitsExactlyTheFrame := by
  intro s s1 t start p cs hs hlen hfits hold hn hstart h hcs hcount hrun
  obtain ⟨hsend, hpos, hcmd, hcfg⟩ := sending_of_start hs hlen hfits hold hn hstart h
  refine ⟨?_, fun hall hlast => ?_⟩
  · rw [hsend.sinkBytes_eq hcs (by omega) hrun, hpos, hcmd, hcfg, List.drop_zero]
  · rw [← hcmd]
    exact hsend.finishes hcs (by omega) hlast hrun

/-- Settles O58: all the bytes of the frame are sent, and with the same preamble they are a frame for the parser too. -/
theorem sentFrameIsReceived : Obligations.SentFrameIsReceived := by
  intro s s1 u r p cs hs hlen hfits hold h hcs hcount hrun hr hpre1 hpre2 hfits'
  obtain ⟨hsend, hpos, hcmd, hcfg⟩ :=
    sending_of_start hs hlen hfits hold (c := lineStart) ⟨rfl, rfl⟩ rfl h
  have hsent : sinkBytes cs s1 = wireFrame r.cfg s.cfg.dirTx s.tx.cmd p := by
    rw [hsend.sinkBytes_eq hcs (by omega) hrun, hpos, hcmd, hcfg, List.drop_zero, hcount,
      List.take_of_length_le (by rw [encodeFrame_length]), encodeFrame, wireFrame, wireFrame, hpre1, hpre2]
  rw [hsent]
  exact runCycles_feed_wireFrame hr hfits'

/-- Settles O60: (a) and (b) are laws of the exclusive-or, and (c) holds since the checksum is the frame's last byte. -/
theorem checksumLaws : Obligations.ChecksumLaws := by
  refine ⟨fun cfg b p => ?_, fun l b p j k hj _ => ?_, fun cfg cfg' b p => ?_⟩
  · rw [encodeFrame_drop_three]
    exact xorBytes_snoc_self _
  · exact xorBytes_modify _ j _ hj
  · rw [encodeFrame_getLast?, encodeFrame_getLast?]

/-- Settles O22: the CTRL write is TX_START of the encoder, which starts or is refused. -/
theorem txStartStartsOrIsRefused : Obligations.TxStartStartsOrIsRefused := by
  intro s hi lo
  refine ⟨?_, rfl⟩
  rintro rfl
  exact ⟨exec_ctrlTxStart_starts hi, exec_ctrlTxStart_refused hi⟩

/-- Settles O30: each row is the arm of its state, and the port carries that state's byte. -/
theorem headerIsSentFieldByField : Obligations.HeaderIsSentFieldByField := by
  intro s
  have hw {st : TxState} (hs : s.tx.state = st) (hst : st ≠ .data) : sendsUnwritten s = false :=
    sendsUnwritten_of_not_data (hs ▸ hst)
  refine ⟨fun hs => ?_, fun hs => ?_, fun hs => ?_, fun hs => ?_, fun hs => ?_⟩
  all_goals
    have htransfer := transfer_of_decodeTx (s := s) (by rw [hs]; rfl) (hw hs nofun)
    simpa only [txByte, txArm, txPre1, txPre2, txDir, txLen, txCmd, hs] using htransfer

/-- Settles O31: the byte sent is the stored one, and without one the transfer faults. -/
theorem payloadByteIsSentAndSummed : Obligations.PayloadByteIsSentAndSummed := by
  intro s hs
  refine ⟨fun b hb => ?_, fun hnone => ?_⟩
  · have hwritten : sendsUnwritten s = false := by simp [sendsUnwritten, hb]
    have hbyte : txByte s = b := Option.some.inj ((read_txByte hs hwritten).symm.trans hb)
    have htransfer := transfer_of_decodeTx (i := .txByteData) (by rw [hs]; rfl) hwritten
    simpa only [hbyte, txArm, txData, hs] using htransfer
  · rw [exec_of_decodeTx (i := .txByteData) (by rw [hs]; rfl), runCycle_fault_iff]
    exact .inr ⟨nofun, rfl, (sendsUnwritten_iff s).2 ⟨hs, hnone⟩, rfl⟩

/-- Settles O32: the arm of CSUM sends the running checksum and keeps it. -/
theorem checksumByteIsSentAndKept : Obligations.ChecksumByteIsSentAndKept := by
  intro s hs
  have htransfer :=
    transfer_of_decodeTx (i := .txByteCsum) (by rw [hs]; rfl) (sendsUnwritten_of_not_data (by simp [hs]))
  simpa only [txByte, txArm, txCsum, hs] using htransfer

end Sys2Proof.Machine
end

section
/-! PROOFS. The family 42_parser.md: the arms of a received byte (R152 to R158), the two host commands on the parser (R160,
R161), and from them the verdict on a whole frame (R166), the search for the next frame in garbage (R163) and the rejection of
a flipped bit (R170). -/

namespace Sys2Proof.Machine

variable {cfg : Config.Params} {r r' : Parser} {s s' t : State} {x : CycleIn} {p : List Byte}

/-! ## A cycle that accepts a byte -/

/-- What an accepted byte does, from the registers at the start of its cycle (R151). -/
def rxAccept (cfg : Config.Params) (r : Parser) (b : Byte) : RxStep := rxArm cfg b r { rx := clearPulses r }

/-- The pulses have no part in it. -/
theorem rxAccept_clearPulses (cfg : Config.Params) (r : Parser) (b : Byte) :
    rxAccept cfg (clearPulses r) b = rxAccept cfg r b := rfl

theorem rxAccept_hunt_desync (hs : r.state = .hunt) {b : Byte} (hb : b ≠ cfg.pre1) :
    rxAccept cfg r b = { rx := clearPulses r, ev := 1#5 } := by
  simp [rxAccept, rxArm, hs, rxHunt, hb]

theorem rxAccept_pre2_rescan (hs : r.state = .pre2) (hne : cfg.pre1 ≠ cfg.pre2) :
    rxAccept cfg r cfg.pre1 = { rx := { clearPulses r with state := .pre2 }, ev := 1#5 } := by
  simp [rxAccept, rxArm, hs, rxPre2, hne]

theorem rxAccept_pre2_fails (hs : r.state = .pre2) {b : Byte} (hb2 : b ≠ cfg.pre2) (hb1 : b ≠ cfg.pre1) :
    rxAccept cfg r b = { rx := { clearPulses r with state := .hunt }, ev := 1#5 } := by
  simp [rxAccept, rxArm, hs, rxPre2, hb2, hb1]

theorem rxAccept_len_overflows (hs : r.state = .len) {b : Byte} (hb : cfg.maxPayload < b) :
    rxAccept cfg r b = {
      rx := { clearPulses r with len := b, acc := r.acc ^^^ b, state := .hunt, result := .lenOverflow, eofQ := true }
      ev := 4#5 } := by
  simp [rxAccept, rxArm, hs, rxLen, hb]

theorem rxAccept_csum_rejects (hs : r.state = .csum) {b : Byte} (hb : b ≠ r.acc) :
    rxAccept cfg r b = {
      rx := { clearPulses r with csum := b, state := .hunt, result := .csumMismatch, eofQ := true }, ev := 2#5 } := by
  simp [rxAccept, rxArm, hs, rxCsum, hb]

/-- Without RX_FLUSH and outside HOLD a byte is accepted, with RX_ACK or without (R151, R160). -/
theorem rxNext_byte (cfg : Config.Params) (hs : r.state ≠ .hold) (b : Byte) (ack : Bool) :
    rxNext cfg r (some b) ack false = rxAccept cfg r b := by
  simp [rxNext, hs, rxAccept]

/-- And without a byte only the pulses change. -/
theorem rxNext_noByte (cfg : Config.Params) (hs : r.state ≠ .hold) (ack : Bool) :
    rxNext cfg r none ack false = { rx := clearPulses r } := by
  simp [rxNext, hs]

/-- A byte alone in its cycle, outside HOLD, is its arm and nothing else. -/
theorem fed_eq (hs : s.rx.state ≠ .hold) (b : Byte) :
    s.fed b = { quietNext 0 s with
      rx := (rxAccept s.cfg s.rx b).rx, err := s.err ||| (rxAccept s.cfg s.rx b).ev } := by
  simp [State.fed, advance, opNop, hs, rxNext_byte s.cfg hs, txNext, nextErr_set, quietNext, countWrites]

/-- A receive row in its state is its arm (R91). -/
theorem exec_rxByte {i : Instr} {b : Byte} (h : decodeRx s.rx.state b = .ok i) :
    exec i s = .next { quietNext 0 s with
      rx := (rxAccept s.cfg s.rx b).rx, err := s.err ||| (rxAccept s.cfg s.rx b).ev } := by
  have hs : s.rx.state ≠ .hold := fun hs => by
    rw [hs] at h
    cases h
  rw [exec_of_decodeRx h, ← fed_eq hs, ← cycle_lineRx]
  exact (cycle_rxByte b s).symm

/-- A flag that the parser raises is set, whatever the host clears in the same cycle (R120). -/
theorem nextErr_getLsbD_of_evRx {err clr evRx evTx : BitVec 5} {k : Nat} (h : evRx.getLsbD k = true) :
    (nextErr err clr evRx evTx).getLsbD k = true := by
  simp [nextErr, h]

/-- A byte accepted in any cycle in which the frame goes on is its arm, and leaves its flag set. -/
theorem cycle_accepts {b : Byte} (hs : s.rx.state ≠ .hold) (hx : frameGoesOn x) (hb : rxOffer x = some b)
    (h : cycle x s = .next s') : s'.rx = (rxAccept s.cfg s.rx b).rx ∧
      ∀ k, (rxAccept s.cfg s.rx b).ev.getLsbD k = true → s'.err.getLsbD k = true := by
  obtain ⟨hn, hflush⟩ := hx
  obtain ⟨-, rd, -, rfl⟩ := cycle_noReset hn h
  rw [advance_rx, advance_err, if_neg hs, hb, hflush, rxNext_byte s.cfg hs]
  exact ⟨rfl, fun k hk => nextErr_getLsbD_of_evRx hk⟩

/-- A cycle without a byte in which the frame goes on only clears the parser's pulses. -/
theorem cycle_gap (hs : s.rx.state ≠ .hold) (hx : frameGoesOn x) (hb : rxOffer x = none) (h : cycle x s = .next s') :
    s'.rx = clearPulses s.rx := by
  obtain ⟨hn, hflush⟩ := hx
  obtain ⟨-, rd, -, rfl⟩ := cycle_noReset hn h
  rw [advance_rx, if_neg hs, hb, hflush, rxNext_noByte s.cfg hs]

/-! ## Gaps and host accesses

The parser makes of the bytes offered over a run what it makes of the same bytes fed one a cycle, but for the pulses. -/

theorem frameStays_lineRx (b : Byte) : frameStays (lineRx b) := by
  simp [frameStays, frameGoesOn, noReset, ctrlData, lineRx]

/-- A held frame takes none of the bytes fed (R159). -/
theorem foldl_fed_hold (hs : s.rx.state = .hold) (bs : List Byte) : (bs.foldl State.fed s).rx.state = .hold := by
  have hstays : ∀ x ∈ feed bs, frameStays x := by
    intro x hx
    obtain ⟨b, -, rfl⟩ := List.mem_map.1 hx
    exact frameStays_lineRx b
  obtain ⟨hrx, -⟩ := runCycles_keeps_heldFrame hs hstays (runCycles_feed bs s)
  rw [← clearPulses_state, hrx, clearPulses_state, hs]

/-- The two states have the same parser but for the pulses. -/
structure SameParser (s s' : State) : Prop where
  rx : clearPulses s'.rx = clearPulses s.rx
  cfg : s'.cfg = s.cfg

theorem SameParser.trans (h : SameParser s s') (h' : SameParser s' t) : SameParser s t :=
  ⟨h'.rx.trans h.rx, h'.cfg.trans h.cfg⟩

theorem SameParser.state (h : SameParser s s') : s'.rx.state = s.rx.state := by
  rw [← clearPulses_state s'.rx, h.rx, clearPulses_state]

theorem SameParser.fed (h : SameParser s s') (b : Byte) : SameParser (s.fed b) (s'.fed b) := by
  refine ⟨?_, h.cfg⟩
  by_cases hs : s.rx.state = .hold
  · have hs' : s'.rx.state = .hold := h.state.trans hs
    simp only [State.fed, advance, if_pos hs, if_pos hs']
    exact h.rx
  · have hs' : s'.rx.state ≠ .hold := h.state ▸ hs
    rw [fed_eq hs, fed_eq hs', h.cfg, ← rxAccept_clearPulses, h.rx, rxAccept_clearPulses]

theorem SameParser.foldl_fed (h : SameParser s s') (bs : List Byte) :
    SameParser (bs.foldl State.fed s) (bs.foldl State.fed s') := by
  induction bs generalizing s s' with
  | nil => exact h
  | cons b bs ih => exact ih (h.fed b)

theorem sameParser_cycle (hs : s.rx.state ≠ .hold) (hx : frameGoesOn x) (h : cycle x s = .next s') :
    SameParser ((rxOffer x).toList.foldl State.fed s) s' := by
  have hcfg : s'.cfg = s.cfg := cycle_cfg h
  cases hb : rxOffer x with
  | none =>
    refine ⟨?_, hcfg⟩
    rw [cycle_gap hs hx hb h]
    rfl
  | some b =>
    refine ⟨?_, hcfg⟩
    rw [(cycle_accepts hs hx hb h).1, Option.toList_some, List.foldl_cons, List.foldl_nil, fed_eq hs]

/-- The last cycle of a run that answers a next state. -/
theorem runCycles_before_last {xs : List CycleIn} (h : runCycles (xs ++ [x]) s = .next t) :
    ∃ u, runCycles xs s = .next u ∧ cycle x u = .next t := by
  rw [runCycles_append] at h
  cases hxs : runCycles xs s with
  | next u =>
    rw [hxs] at h
    obtain ⟨v, hv, hnil⟩ := runCycles_cons h
    cases hnil
    exact ⟨u, rfl, hv⟩
  | fault f =>
    rw [hxs] at h
    cases h
  | refused e =>
    rw [hxs] at h
    cases h

theorem offered_cons (x : CycleIn) (xs : List CycleIn) : offered (x :: xs) = (rxOffer x).toList ++ offered xs := by
  cases h : rxOffer x <;> simp [offered, h]

/-- Where the last cycle offers a byte, it is the last byte offered. -/
theorem offered_eq_snoc {xs : List CycleIn} {bs : List Byte} {k : Byte} (hoff : offered xs = bs ++ [k])
    (hlast : xs.getLast?.map CycleIn.rxValid = some true) :
    ∃ ys y, xs = ys ++ [y] ∧ offered ys = bs ∧ rxOffer y = some k := by
  obtain ⟨y, hy, hvalid⟩ := Option.map_eq_some_iff.1 hlast
  obtain ⟨ys, rfl⟩ := List.getLast?_eq_some_iff.1 hy
  have hk : rxOffer y = some y.rxData := if_pos hvalid
  have hsplit : offered (ys ++ [y]) = offered ys ++ [y.rxData] := by simp [offered, hk]
  obtain ⟨hbytes, hbyte⟩ := List.append_inj' (hsplit.symm.trans hoff) rfl
  exact ⟨ys, y, rfl, hbytes, hk.trans (congrArg some (List.head_eq_of_cons_eq hbyte))⟩

/-- As long as the bytes complete no frame, by induction over the cycles. -/
theorem sameParser_run {xs : List CycleIn} (hxs : ∀ x ∈ xs, frameGoesOn x) (h : runCycles xs s = .next t)
    (hopen : ((offered xs).foldl State.fed s).rx.state ≠ .hold) : SameParser ((offered xs).foldl State.fed s) t := by
  induction xs generalizing s with
  | nil =>
    cases h
    exact ⟨rfl, rfl⟩
  | cons x xs ih =>
    obtain ⟨u, hu, hrun⟩ := runCycles_cons h
    obtain ⟨hx, hxs⟩ := List.forall_mem_cons.1 hxs
    have hs : s.rx.state ≠ .hold := fun hs => hopen (foldl_fed_hold hs _)
    rw [offered_cons, List.foldl_append] at hopen ⊢
    have hsame := (sameParser_cycle hs hx hu).foldl_fed (offered xs)
    exact hsame.trans (ih hxs hrun (hsame.state ▸ hopen))

/-! ## The frame's bytes -/

/-- The header of a frame within the capacity, from its second preamble byte on (R153 to R156). -/
theorem collecting_of_pre2 {dir n b : Byte} (hs : s.rx.state = .pre2) (hn : n ≤ s.cfg.maxPayload) :
    Collecting dir n b [] ([s.cfg.pre2, dir, n, b].foldl State.fed s).rx ∧
      ([s.cfg.pre2, dir, n, b].foldl State.fed s).err = s.err := by
  obtain ⟨hstart, herr⟩ := fed_quietly (by simp [hs]) (rxArm_pre2 hs _)
  obtain ⟨hcmd, hd, hlen, hacc, herr'⟩ :=
    fed_direction_length (s := s.fed s.cfg.pre2) (dir := dir) (by rw [hstart]) (by rw [hstart]) hn
  obtain ⟨hcol, herr''⟩ := collecting_of_command hcmd hlen hacc b
  rw [hd] at hcol
  exact ⟨hcol, herr''.trans (herr'.trans herr)⟩

/-- The collected fields do not depend on the pulses. -/
theorem Collecting.congr {dir n b : Byte} {q : List Byte} (h : Collecting dir n b q r)
    (hr : clearPulses r' = clearPulses r) : Collecting dir n b q r' := by
  rw [← eq_withPulses_of_clearPulses_eq hr] at h
  exact ⟨h.state, h.dir, h.len, h.cmd, h.idx, h.acc, h.holds⟩

theorem Collecting.not_hold {dir n b : Byte} {q : List Byte} (h : Collecting dir n b q r) : r.state ≠ .hold := by
  rw [h.state]
  split <;> nofun

/-- What the checksum byte makes of a collected frame (R158). -/
theorem Collecting.verdict {dir n b : Byte} {q : List Byte} (h : Collecting dir n b q r) (hq : q.length = n.toNat)
    (cfg : Config.Params) (k : Byte) :
    rxAccept cfg r k =
      if k = xorBytes (n :: b :: q) then
        { rx := { clearPulses r with csum := k, state := .hold, result := .ok, eofQ := true } }
      else
        { rx := { clearPulses r with csum := k, state := .hunt, result := .csumMismatch, eofQ := true }
          ev := 2#5 } := by
  have hs : r.state = .csum := h.state.trans (if_pos hq)
  rw [← h.acc]
  split
  · next hk =>
    subst hk
    exact rxArm_csum_accepts hs _
  · next hk => exact rxAccept_csum_rejects hs hk

theorem ofNat_length_toNat {m : Byte} (hfits : p.length ≤ m.toNat) : (BitVec.ofNat 8 p.length).toNat = p.length :=
  Nat.mod_eq_of_lt (Nat.lt_of_le_of_lt hfits m.isLt)

theorem ofNat_length_le {m : Byte} (hfits : p.length ≤ m.toNat) : BitVec.ofNat 8 p.length ≤ m := by
  rw [BitVec.le_def, ofNat_length_toNat hfits]
  exact hfits

/-- The end of a preamble: in HUNT both bytes are to come, in PRE2 the second (R152, R153). -/
def PreambleFrom (s : State) (pre : List Byte) : Prop :=
  (s.rx.state = .hunt ∧ pre = [s.cfg.pre1, s.cfg.pre2]) ∨ (s.rx.state = .pre2 ∧ pre = [s.cfg.pre2])

/-- The header and the payload of a frame within the capacity (R152 to R157). -/
theorem collecting_of_frame {pre : List Byte} (hpre : PreambleFrom s pre) (hfits : p.length ≤ s.cfg.maxPayload.toNat)
    (dir b : Byte) :
    Collecting dir (BitVec.ofNat 8 p.length) b p
        ((pre ++ [dir, BitVec.ofNat 8 p.length, b] ++ p).foldl State.fed s).rx ∧
      ((pre ++ [dir, BitVec.ofNat 8 p.length, b] ++ p).foldl State.fed s).err = s.err := by
  have hn := ofNat_length_toNat hfits
  have hcap := ofNat_length_le hfits
  have hhead : Collecting dir (BitVec.ofNat 8 p.length) b []
        ((pre ++ [dir, BitVec.ofNat 8 p.length, b]).foldl State.fed s).rx ∧
      ((pre ++ [dir, BitVec.ofNat 8 p.length, b]).foldl State.fed s).err = s.err := by
    rcases hpre with ⟨hs, rfl⟩ | ⟨hs, rfl⟩
    · exact collecting_of_header hs hcap
    · exact collecting_of_pre2 hs hcap
  obtain ⟨hcol, herr⟩ := hhead
  obtain ⟨hpay, herr'⟩ := hcol.payload (bs := p) (by rw [hn, List.length_nil, Nat.zero_add])
  rw [List.foldl_append]
  exact ⟨hpay, herr'.trans herr⟩

/-! ## A flipped bit -/

/-- A list of at least two bytes, split as a command, a payload and a checksum. -/
theorem exists_command_payload_checksum {l : List Byte} {m : Nat} (h : l.length = m + 2) :
    ∃ b q k, l = b :: q ++ [k] ∧ q.length = m := by
  obtain ⟨b, tail, rfl⟩ := List.exists_cons_of_length_eq_add_one h
  rw [List.length_cons] at h
  have hne : tail ≠ [] := List.ne_nil_of_length_pos (by omega)
  refine ⟨b, tail.dropLast, tail.getLast hne, ?_, ?_⟩
  · rw [List.cons_append, List.dropLast_append_getLast hne]
  · rw [List.length_dropLast]
    omega

/-- A single bit is no zero byte. -/
theorem bit_ne_zero {k : Nat} (hk : k < 8) : (1#8 <<< k) ≠ 0 := by
  interval_cases k <;> decide

/-- A frame with one bit flipped after its length is a frame of the same length with a wrong checksum (R142, R170). -/
theorem flippedBit_breaks_checksum (b : Byte) (p : List Byte) {j k : Nat} (hj : j < p.length + 2) (hk : k < 8) :
    ∃ b' q k', (b :: p ++ [checksum b p]).modify j (fun y => y ^^^ (1#8 <<< k)) = b' :: q ++ [k'] ∧
      q.length = p.length ∧ k' ≠ xorBytes (BitVec.ofNat 8 p.length :: b' :: q) := by
  have hlen : (b :: p ++ [checksum b p]).length = p.length + 2 := by simp
  obtain ⟨b', q, k', hl, hq⟩ := exists_command_payload_checksum
    ((List.length_modify (fun y => y ^^^ (1#8 <<< k)) (b :: p ++ [checksum b p]) j).trans hlen)
  refine ⟨b', q, k', hl, hq, fun hk' => bit_ne_zero hk ?_⟩
  have hsum : xorBytes (BitVec.ofNat 8 p.length :: (b :: p ++ [checksum b p])) = 0 :=
    xorBytes_snoc_self (BitVec.ofNat 8 p.length :: b :: p)
  have hsum' : xorBytes (BitVec.ofNat 8 p.length :: (b' :: q ++ [k'])) = 0 :=
    hk' ▸ xorBytes_snoc_self (BitVec.ofNat 8 p.length :: b' :: q)
  rw [← hl, xorBytes, xorBytes_modify _ j _ (hlen ▸ hj), ← BitVec.xor_assoc] at hsum'
  rw [xorBytes] at hsum
  rw [hsum] at hsum'
  exact BitVec.zero_xor.symm.trans hsum'

/-- Outside HOLD the RX fields read 0x00 (R165). -/
theorem memRead_rxField_of_not_hold (hs : s.rx.state ≠ .hold) {a : HostAddr} (hlo : 0x004 ≤ a) (hhi : a ≤ 0x007) :
    memRead a s = .ok 0 := by
  have hcases : a = 0x004 ∨ a = 0x005 ∨ a = 0x006 ∨ a = 0x007 := by bv_omega
  rcases hcases with rfl | rfl | rfl | rfl <;> exact congrArg Except.ok (heldByte_of_not_hold hs _)

/-- Outside HOLD the RX window reads 0x00 (R62, R165). -/
theorem memRead_rxWindow_of_not_hold (hs : s.rx.state ≠ .hold) {a : HostAddr} (hlo : 0x200 ≤ a) (hhi : a ≤ 0x2FF) :
    memRead a s = .ok 0 := by
  have h10 : ¬ a < 0x010 := by bv_omega
  have h200 : ¬ a < 0x200 := by bv_omega
  have h300 : a < 0x300 := by bv_omega
  rw [memRead, if_neg h10, if_neg h200, if_pos h300, rxView_of_not_hold hs]

/-! ## Garbage before a frame -/

/-- The bytes hold no pair `a b`. -/
def NoPair (a b : Byte) (g : List Byte) : Prop := ∀ i, ¬ (g[i]? = some a ∧ g[i + 1]? = some b)

theorem NoPair.of_isPrefix {a b : Byte} {g g' : List Byte} (h : NoPair a b g') (hg : g <+: g') : NoPair a b g := by
  obtain ⟨tail, rfl⟩ := hg
  intro i ⟨ha, hb⟩
  refine h i ⟨?_, ?_⟩
  · rw [List.getElem?_append_left (List.getElem?_eq_some_iff.1 ha).1, ha]
  · rw [List.getElem?_append_left (List.getElem?_eq_some_iff.1 hb).1, hb]

/-- After a byte `a` at the end the next one is not `b`. -/
theorem NoPair.next_ne {a b y : Byte} {q : List Byte} (h : NoPair a b (q ++ [a] ++ [y])) : y ≠ b := fun hy =>
  h q.length (by simp [hy])

/-- The parser `u` after the garbage `g`, scanned from the state `s` in HUNT: in PRE2 with `P_PRE1` at the end of
`g`, where DESYNC may stand or not, or in HUNT, with DESYNC unless there was no byte (R163). -/
def Scanned (s : State) (g : List Byte) (u : State) : Prop :=
  (u.rx.state = .pre2 ∧ (∃ q, g = q ++ [s.cfg.pre1]) ∧ u.err ||| 1#5 = s.err ||| 1#5) ∨
  (u.rx.state = .hunt ∧ u.err = s.err ||| (if g = [] then 0#5 else 1#5))

theorem Scanned.not_hold {g : List Byte} {u : State} (h : Scanned s g u) : u.rx.state ≠ .hold := by
  rcases h with ⟨hs, -⟩ | ⟨hs, -⟩ <;> simp [hs]

/-- With DESYNC raised once more, the flags are the same in both cases. -/
theorem Scanned.or_desync {g : List Byte} {u : State} (h : Scanned s g u) : u.err ||| 1#5 = s.err ||| 1#5 := by
  rcases h with ⟨-, -, herr⟩ | ⟨-, herr⟩
  · exact herr
  · rw [herr]
    split <;> simp [BitVec.or_assoc]

/-- One more byte of garbage starts no frame (R152, R153). -/
theorem Scanned.next {g : List Byte} {u : State} {y : Byte} (h : Scanned s g u) (hcfg : u.cfg = s.cfg)
    (hpair : NoPair s.cfg.pre1 s.cfg.pre2 (g ++ [y])) : Scanned s (g ++ [y]) (u.fed y) ∧ (u.fed y).rx.sofQ = false := by
  have herr := h.or_desync
  rw [fed_eq h.not_hold, hcfg]
  rcases h with ⟨hs, ⟨q, hq⟩, -⟩ | ⟨hs, -⟩
  · have hy2 : y ≠ s.cfg.pre2 := by
      rw [hq] at hpair
      exact hpair.next_ne
    by_cases hy1 : y = s.cfg.pre1
    · subst hy1
      rw [rxAccept_pre2_rescan hs hy2]
      exact ⟨.inl ⟨rfl, ⟨g, rfl⟩, by simpa [BitVec.or_assoc] using herr⟩, rfl⟩
    · rw [rxAccept_pre2_fails hs hy2 hy1]
      exact ⟨.inr ⟨rfl, by simpa using herr⟩, rfl⟩
  · by_cases hy1 : y = s.cfg.pre1
    · subst hy1
      rw [rxAccept, rxArm_hunt hs]
      exact ⟨.inl ⟨rfl, ⟨g, rfl⟩, by simpa using herr⟩, rfl⟩
    · rw [rxAccept_hunt_desync hs hy1]
      exact ⟨.inr ⟨hs, by simpa using herr⟩, rfl⟩

theorem foldl_fed_cfg (bs : List Byte) (s : State) : (bs.foldl State.fed s).cfg = s.cfg := by
  induction bs generalizing s with
  | nil => rfl
  | cons b bs ih => exact ih (s.fed b)

/-- Nor do any number of them, by induction from the last byte. -/
theorem scanned_garbage {g : List Byte} (hs : s.rx.state = .hunt) (hpair : NoPair s.cfg.pre1 s.cfg.pre2 g) :
    Scanned s g (g.foldl State.fed s) ∧ (g.foldl State.fed s).rx.sofQ = (s.rx.sofQ && decide (g = [])) := by
  induction g using List.reverseRecOn with
  | nil => exact ⟨.inr ⟨hs, by simp⟩, by simp⟩
  | append_singleton g y ih =>
    obtain ⟨hscan, -⟩ := ih (hpair.of_isPrefix (List.prefix_append g [y]))
    rw [List.foldl_append, List.foldl_cons, List.foldl_nil]
    obtain ⟨hnext, hsof⟩ := hscan.next (foldl_fed_cfg g s) hpair
    exact ⟨hnext, by simp [hsof]⟩

/-- After the garbage, `P_PRE1` is the first preamble byte of a frame; by then DESYNC stands iff there was garbage. -/
theorem Scanned.preamble {g : List Byte} {u : State} (h : Scanned s g u) (hcfg : u.cfg = s.cfg)
    (hne : s.cfg.pre1 ≠ s.cfg.pre2) : (u.fed s.cfg.pre1).rx.state = .pre2 ∧
      (u.fed s.cfg.pre1).err = s.err ||| (if g = [] then 0#5 else 1#5) := by
  rw [fed_eq h.not_hold, hcfg]
  rcases h with ⟨hs, ⟨q, rfl⟩, herr⟩ | ⟨hs, herr⟩
  · rw [rxAccept_pre2_rescan hs hne]
    exact ⟨rfl, by simpa using herr⟩
  · rw [rxAccept, rxArm_hunt hs]
    exact ⟨rfl, by simpa using herr⟩

/-! ## The host commands on the parser -/

/-- A CTRL write of RX_ACK or RX_FLUSH or both, and no other command, is that command of the parser (R160, R161, R192). -/
theorem hostCycle_parserCommand {d : Byte} (h7 : d.getLsbD 7 = false) (h2 : d.getLsbD 2 = false) (s : State) :
    hostCycle (opCtrl d) s = .next { writeNext s with
      rx := (rxNext s.cfg s.rx none (d.getLsbD 0) (d.getLsbD 1)).rx
      err := s.err ||| (rxNext s.cfg s.rx none (d.getLsbD 0) (d.getLsbD 1)).ev } := by
  rw [hostCycle, runCycle_advance (h := opCtrl d) (rd := 0) rfl (by simp) h7]
  simp only [advance, opCtrl, h2, ite_self]
  simp [txNext, nextErr_set, writeNext, quietNext, driven, countWrites]

/-- The CTRL data of the row RX_ACK with bits 2:1 clear commands RX_ACK and nothing else (R192). -/
theorem ctrlRxAckData_bits : ∀ hi : BitVec 6, hi.getLsbD 0 = false → hi.getLsbD 1 = false →
    (ctrlRxAckData hi).getLsbD 7 = false ∧ (ctrlRxAckData hi).getLsbD 2 = false ∧
      (ctrlRxAckData hi).getLsbD 1 = false ∧ (ctrlRxAckData hi).getLsbD 0 = true := by
  decide

/-- The CTRL data of the row RX_FLUSH with bit 2 clear commands RX_FLUSH, and no more than RX_ACK beside it (R192). -/
theorem ctrlRxFlushData_bits : ∀ (hi : BitVec 5) (b0 : BitVec 1), hi.getLsbD 0 = false →
    (ctrlRxFlushData hi b0).getLsbD 7 = false ∧ (ctrlRxFlushData hi b0).getLsbD 2 = false ∧
      (ctrlRxFlushData hi b0).getLsbD 1 = true := by
  decide

/-- RX_ACK releases a held frame (R160). -/
theorem rxNext_ack (hs : r.state = .hold) : rxNext cfg r none true false = { rx := { clearPulses r with state := .hunt } } := by
  simp [rxNext, rxAck, hs]

theorem exec_ctrlRxAck {hi : BitVec 6} (h0 : hi.getLsbD 0 = false) (h1 : hi.getLsbD 1 = false) (s : State) :
    exec (.ctrlRxAck hi) s = .next { writeNext s with
      rx := (rxNext s.cfg s.rx none true false).rx, err := s.err ||| (rxNext s.cfg s.rx none true false).ev } := by
  obtain ⟨hd7, hd2, hd1, hd0⟩ := ctrlRxAckData_bits hi h0 h1
  have hcmd := hostCycle_parserCommand hd7 hd2 s
  rwa [hd1, hd0] at hcmd

/-- RX_FLUSH alone or with RX_ACK (R161). -/
theorem exec_ctrlRxFlush {hi : BitVec 5} (h0 : hi.getLsbD 0 = false) (b0 : BitVec 1) (s : State) :
    exec (.ctrlRxFlush hi b0) s = .next { writeNext s with
      rx := (rxFlush s.rx { rx := clearPulses s.rx }).rx
      err := s.err ||| (rxFlush s.rx { rx := clearPulses s.rx }).ev } := by
  obtain ⟨hd7, hd2, hd1⟩ := ctrlRxFlushData_bits hi b0 h0
  have hcmd := hostCycle_parserCommand hd7 hd2 s
  rwa [hd1, rxNext_flush] at hcmd

/-! ## The statements -/

/-- Settles O56: up to the checksum byte the run leaves the parser as the same bytes one a cycle do, and that byte decides. -/
theorem frameVerdictIsTheChecksum : Obligations.FrameVerdictIsTheChecksum := by
  intro s t cs pre dir c k p hpre hfits hcs hoff hlast hrun
  obtain ⟨xs, x, rfl, hbytes, hk⟩ := offered_eq_snoc hoff hlast
  obtain ⟨hxs, hx⟩ : (∀ y ∈ xs, frameGoesOn y) ∧ frameGoesOn x :=
    ⟨fun y hy => hcs y (by simp [hy]), hcs x (by simp)⟩
  obtain ⟨u, hu, hfinal⟩ := runCycles_before_last hrun
  obtain ⟨hfed, -⟩ := collecting_of_frame hpre hfits dir c
  rw [← hbytes] at hfed
  have hcol := hfed.congr (sameParser_run hxs hu hfed.not_hold).rx
  obtain ⟨hrx, hflag⟩ := cycle_accepts hcol.not_hold hx hk hfinal
  rw [hcol.verdict (ofNat_length_toNat hfits).symm] at hrx hflag
  by_cases hsum : k = xorBytes (BitVec.ofNat 8 p.length :: c :: p)
  · rw [if_pos hsum] at hrx
    rw [hrx]
    exact ⟨iff_of_true rfl hsum, fun _ => ⟨rfl, hcol.dir, hcol.len, hcol.cmd, rfl, hcol.holds⟩,
      fun hhunt => absurd rfl hhunt⟩
  · rw [if_neg hsum] at hrx hflag
    rw [hrx]
    exact ⟨iff_of_false nofun hsum, nofun, fun _ => ⟨rfl, rfl, hflag 1 (show (2#5).getLsbD 1 = true by decide)⟩⟩

/-- Settles O57: the scan of the garbage starts no frame, and the frame's own preamble ends it. -/
theorem parserResynchronizesAfterGarbage : Obligations.ParserResynchronizesAfterGarbage := by
  intro s g p c hne hs hfits hpair
  refine ⟨⟨_, runCycles_feed _ s, ?_⟩, fun n hn => ⟨_, runCycles_feed _ s, ?_⟩⟩
  · obtain ⟨hscan, -⟩ := scanned_garbage hs hpair
    have hcfg : ((g.foldl State.fed s).fed s.cfg.pre1).cfg = s.cfg := foldl_fed_cfg g s
    obtain ⟨hpre2, herr⟩ := hscan.preamble hcfg hne
    obtain ⟨hcol, ecol⟩ := collecting_of_frame (pre := [s.cfg.pre2]) (.inr ⟨hpre2, by rw [hcfg]⟩) (hcfg.symm ▸ hfits)
      s.cfg.dirTx c
    obtain ⟨hrx, eacc⟩ := hcol.accepts (ofNat_length_toNat hfits).symm
    have hbytes : (g ++ encodeFrame s.cfg c p).foldl State.fed s =
        (([s.cfg.pre2] ++ [s.cfg.dirTx, BitVec.ofNat 8 p.length, c] ++ p).foldl State.fed
          ((g.foldl State.fed s).fed s.cfg.pre1)).fed (xorBytes (BitVec.ofNat 8 p.length :: c :: p)) := by
      simp [encodeFrame, wireFrame, checksum]
    rw [hbytes, hrx]
    exact ⟨rfl, rfl, hcol.cmd, hcol.len, hcol.holds, eacc.trans (ecol.trans herr)⟩
  · obtain ⟨hscan, hsof⟩ := scanned_garbage hs (NoPair.of_isPrefix hpair (List.take_prefix n g))
    have hempty : g.take n = [] ↔ n = 0 := by
      rw [← List.length_eq_zero_iff, List.length_take_of_le hn]
    refine ⟨?_, by simp only [hsof, hempty]⟩
    rcases hscan with ⟨hu, -⟩ | ⟨hu, -⟩
    · exact .inr hu
    · exact .inl hu

/-- Settles O59: the flipped bit makes the checksum byte wrong, and the frame that it ends is masked. -/
theorem singleBitCorruptionIsRejected : Obligations.SingleBitCorruptionIsRejected := by
  intro s dir c p j k hs hfits hj hk
  obtain ⟨b', q, k', hflip, hq, hsum⟩ := flippedBit_breaks_checksum c p hj hk
  rw [← hq] at hfits hsum
  obtain ⟨hcol, ecol⟩ := collecting_of_frame (.inl ⟨hs, rfl⟩) hfits dir b'
  have hbytes : ([s.cfg.pre1, s.cfg.pre2, dir, BitVec.ofNat 8 p.length] ++ (b' :: q ++ [k'])).foldl State.fed s =
      (([s.cfg.pre1, s.cfg.pre2] ++ [dir, BitVec.ofNat 8 q.length, b'] ++ q).foldl State.fed s).fed k' := by
    simp [hq]
  have hhunt := fed_eq hcol.not_hold k'
  rw [hcol.verdict (ofNat_length_toNat hfits).symm, if_neg hsum] at hhunt
  refine ⟨_, runCycles_feed _ s, ?_⟩
  rw [hflip, hbytes, hhunt]
  refine ⟨rfl, rfl, congrArg (· ||| 2#5) ecol, fun a => ?_, fun a => ?_⟩
  · exact memRead_rxField_of_not_hold (by simp)
  · exact memRead_rxWindow_of_not_hold (by simp)

/-- Settles O20: RX_ACK takes a held frame to HUNT, where every view of it is masked. -/
theorem rxAckReleasesTheHeldFrame : Obligations.RxAckReleasesTheHeldFrame := by
  intro s hi
  refine ⟨fun h0 h1 => ⟨fun hs => ?_, fun hs => ?_⟩, rfl⟩
  · refine ⟨_, exec_ctrlRxAck h0 h1 s, ?_⟩
    rw [rxNext_ack hs]
    refine ⟨by simp [writeNext, quietNext, clearPulses], fun a => ?_, fun a => ?_⟩
    · exact memRead_rxField_of_not_hold (by simp)
    · exact memRead_rxWindow_of_not_hold (by simp)
  · rw [exec_ctrlRxAck h0 h1, rxNext_noByte s.cfg hs]
    simp [writeNext, quietNext, clearPulses]

/-- Settles O21: RX_FLUSH comes before RX_ACK, and whether it ends a frame is whether one is in progress. -/
theorem rxFlushAbandonsTheFrame : Obligations.RxFlushAbandonsTheFrame := by
  intro s hi b0
  refine ⟨fun h0 => ⟨fun hin => ?_, fun hout => ?_⟩, rfl⟩
  · rw [exec_ctrlRxFlush h0, rxFlush_eq s.rx _ (clearPulses_state s.rx), if_pos hin]
    simp [writeNext, quietNext, clearPulses]
  · rw [exec_ctrlRxFlush h0, rxFlush_eq s.rx _ (clearPulses_state s.rx), if_neg (by simp [hout])]
    simp [writeNext, quietNext, clearPulses]

/-- Settles O24: the two cases of the arm of HUNT. -/
theorem huntTakesOnlyTheFirstPreambleByte : Obligations.HuntTakesOnlyTheFirstPreambleByte := by
  intro s b hs
  rw [exec_rxByte (i := .rxByteHunt b) (b := b) (by rw [hs]; rfl)]
  refine ⟨?_, fun hb => ?_⟩
  · rintro rfl
    rw [rxAccept, rxArm_hunt hs]
    simp [quietNext, clearPulses]
  · rw [rxAccept_hunt_desync hs hb]
    rfl

/-- Settles O25: the three cases of the arm of PRE2. -/
theorem secondPreambleByteStartsTheFrame : Obligations.SecondPreambleByteStartsTheFrame := by
  intro s b hs
  rw [exec_rxByte (i := .rxBytePre2 b) (b := b) (by rw [hs]; rfl)]
  refine ⟨?_, fun hb2 => ?_, fun hb2 hb1 => ?_⟩
  · rintro rfl
    rw [rxAccept, rxArm_pre2 hs]
    simp [quietNext, clearPulses]
  · rintro rfl
    rw [rxAccept_pre2_rescan hs hb2, ← hs]
    rfl
  · rw [rxAccept_pre2_fails hs hb2 hb1]
    rfl

/-- Settles O26: the arms of DIR and CMD, which have one case each. -/
theorem directionAndCommandAreCapturedUnchecked : Obligations.DirectionAndCommandAreCapturedUnchecked := by
  intro s b
  refine ⟨fun hs => ?_, fun hs => ?_⟩
  · rw [exec_rxByte (i := .rxByteDir b) (b := b) (by rw [hs]; rfl), rxAccept, rxArm_dir hs]
    simp [quietNext, clearPulses]
  · rw [exec_rxByte (i := .rxByteCmd b) (b := b) (by rw [hs]; rfl), rxAccept, rxArm_cmd hs]
    simp [quietNext, clearPulses]

/-- Settles O27: the arm of LEN, within the capacity and beyond it. -/
theorem lengthByteIsBounded : Obligations.LengthByteIsBounded := by
  intro s b hs
  rw [exec_rxByte (i := .rxByteLen b) (b := b) (by rw [hs]; rfl)]
  refine ⟨fun hb => ?_, fun hb => ?_⟩
  · rw [rxAccept, rxArm_len hs hb]
    simp [quietNext, clearPulses]
  · rw [rxAccept_len_overflows hs hb]
    rfl

/-- Settles O28: the arm of DATA writes the buffer at `rx_idx`, by the laws of a write. -/
theorem payloadByteIsStoredAtItsIndex : Obligations.PayloadByteIsStoredAtItsIndex := by
  intro s b hs
  refine ⟨s.rx.buf.write s.rx.idx.toNat b, ?_, fun j => Memory.read_write _ _ j b, Memory.write_wf _ _ b⟩
  rw [exec_rxByte (i := .rxByteData b) (b := b) (by rw [hs]; rfl), rxAccept, rxArm_data hs]
  simp [quietNext, clearPulses]

/-- Settles O29: the arm of CSUM, on a match and on a mismatch. -/
theorem checksumByteDecidesTheFrame : Obligations.ChecksumByteDecidesTheFrame := by
  intro s b hs
  rw [exec_rxByte (i := .rxByteCsum b) (b := b) (by rw [hs]; rfl)]
  refine ⟨?_, fun hb => ?_⟩
  · rintro rfl
    rw [rxAccept, rxArm_csum_accepts hs]
    simp [quietNext, clearPulses]
  · rw [rxAccept_csum_rejects hs hb]
    rfl

end Sys2Proof.Machine
end

section
/-! PROOFS. The family 43_host_registers.md: the rows together are the address map (R190, R191), what each read drives
(R193 to R213), and what each write does and leaves unchanged (R192, R196, R203, R205, R214, R215). -/

namespace Sys2Proof.Machine

variable {s : State}

/-! ## A read alone in its cycle -/

/-- A host row that only drives read data changes only the pulses (R190). -/
theorem exec_read {i : Instr} {w : HostWord} (henc : encode i = .host w) {v : Byte}
    (hop : hostOpOf i s = { rdata := .ok v }) : exec i s = .next (quietNext v s) := by
  rw [exec_of_encode_host henc, hop, hostCycle_read]

/-- A read without a value is a fault (U3). -/
theorem hostCycle_fault (f : Fault) (s : State) : hostCycle { rdata := .error f } s = .fault f := rfl

theorem errByte_eq_setWidth (s : State) : errByte s = s.err.setWidth 8 := (BitVec.setWidth_eq_append (by decide)).symm

theorem rxResultByte_eq_setWidth (s : State) : rxResultByte s = (rxResultCode s.rx.result).setWidth 8 :=
  (BitVec.setWidth_eq_append (by decide)).symm

theorem txStateByte_eq_setWidth (s : State) : txStateByte s = (txStateCode s.tx.state).setWidth 8 :=
  (BitVec.setWidth_eq_append (by decide)).symm

/-- STATUS bits 6:4 are the parser's state (R194). -/
theorem statusByte_rxState (s : State) : (statusByte s).extractLsb' 4 3 = rxStateCode s.rx.state := by
  apply BitVec.eq_of_getLsbD_eq
  intro k hk
  simp only [statusByte, BitVec.getLsbD_extractLsb', BitVec.getLsbD_append]
  interval_cases k <;> simp

/-- STATUS bits 3 and 7 read 0 (R194). -/
theorem statusByte_zeros (s : State) : (statusByte s).getLsbD 3 = false ∧ (statusByte s).getLsbD 7 = false := by
  simp only [statusByte, BitVec.getLsbD_append]
  simp

theorem heldByte_of_hold (hs : s.rx.state = .hold) (b : Byte) : heldByte s b = b := by
  simp [heldByte, held, hs]

/-- In HOLD the RX window shows the buffer below the received length (R62). -/
theorem rxView_of_hold {i : Byte} (hs : s.rx.state = .hold) (hi : i < s.rx.len) : rxView s i = rxBufByte s i.toNat :=
  if_pos ⟨decide_eq_true hs, hi⟩

/-- Elsewhere it shows 0x00 (R62). -/
theorem rxView_masked {i : Byte} (h : ¬ (s.rx.state = .hold ∧ i < s.rx.len)) : rxView s i = 0 :=
  if_neg fun ⟨hheld, hi⟩ => h ⟨of_decide_eq_true hheld, hi⟩

theorem rxBufByte_written {i : Nat} {b : Byte} (hb : s.rx.buf.read i = some b) : rxBufByte s i = b := by
  rw [rxBufByte, hb, Option.getD_some]

theorem txView_written {i b : Byte} (hi : i < s.cfg.maxPayload) (hb : s.tx.buf.read i.toNat = some b) :
    txView s i = .ok b := by
  simp only [txView, if_pos hi, hb]

theorem txView_unwritten {i : Byte} (hi : i < s.cfg.maxPayload) (hb : s.tx.buf.read i.toNat = none) :
    txView s i = .error (.readUnwritten i.toNat) :=
  txView_error_iff.2 ⟨hi, hb, rfl⟩

theorem txView_beyond {i : Byte} (hi : s.cfg.maxPayload ≤ i) : txView s i = .ok 0 :=
  if_neg (BitVec.not_lt.2 hi)

/-! ## A write alone in its cycle -/

/-- What a host write other than SOFT_RESET does alone in its cycle, engine by engine; the rest is that of an ignored
write (R117, R191). -/
theorem hostCycle_write {h : HostOp} (hwrite : h.write = true) (hrd : h.rdata = .ok 0) (h7 : h.ctrl.getLsbD 7 = false)
    (s : State) : hostCycle h s = .next { writeNext s with
      rx := (rxNext s.cfg s.rx none (h.ctrl.getLsbD 0) (h.ctrl.getLsbD 1)).rx
      tx := (txNext s.cfg s.tx none (h.ctrl.getLsbD 2) h.wr).tx
      err := nextErr s.err h.clr (rxNext s.cfg s.rx none (h.ctrl.getLsbD 0) (h.ctrl.getLsbD 1)).ev
        (txNext s.cfg s.tx none (h.ctrl.getLsbD 2) h.wr).ev } := by
  rw [hostCycle, runCycle_advance hrd (by simp) h7]
  simp [advance, driven, countWrites, hwrite, writeNext, quietNext]

/-- A write to an encoder input reaches the encoder and the flags alone (R203, R205, R214). -/
theorem hostCycle_txWrite (w : TxWrite) (s : State) :
    hostCycle { wr := some w, write := true } s = .next { writeNext s with
      tx := (txWrite s.cfg w s.tx { tx := s.tx }).tx
      err := s.err ||| (txWrite s.cfg w s.tx { tx := s.tx }).ev } := by
  rw [hostCycle_write rfl rfl (by simp)]
  simp [rxNext_quiet, txNext_idle, nextErr_set, writeNext, quietNext, clearPulses]

/-- While the encoder is idle it stores the write (R203, R205, R214). -/
theorem hostCycle_txWrite_idle {w : TxWrite} (hs : s.tx.state = .idle) (hw : w.withinCapacity s.cfg) :
    hostCycle { wr := some w, write := true } s = .next { writeNext s with tx := w.store s.tx } := by
  rw [hostCycle_txWrite, txWrite_idle hs hw]
  simp [writeNext, quietNext]

/-- While it is busy it refuses the write with TXERR (R143, R267). -/
theorem hostCycle_txWrite_busy {w : TxWrite} (hb : s.tx.state ≠ .idle) (hw : w.withinCapacity s.cfg) :
    hostCycle { wr := some w, write := true } s = .next { writeNext s with err := s.err ||| 0b10000 } := by
  rw [hostCycle_txWrite, txWrite_busy hb hw]
  simp [writeNext, quietNext]

/-- A TX window byte beyond the capacity is ignored in every state (R214). -/
theorem hostCycle_txWrite_beyond {i : Byte} (hi : s.cfg.maxPayload ≤ i) (d : Byte) :
    hostCycle { wr := some (.buf i d), write := true } s = .next (writeNext s) := by
  have hignored : txWrite s.cfg (.buf i d) s.tx { tx := s.tx } = { tx := s.tx } := if_pos (BitVec.not_lt.2 hi)
  rw [hostCycle_txWrite, hignored]
  simp [writeNext, quietNext]

/-! ## Clearing flags -/

/-- The flags a write to ERR clears are the low five bits of its data (R196). -/
theorem clearMask_eq_setWidth (d : Byte) : clearMask d = d.setWidth 5 :=
  (BitVec.setWidth_eq_extractLsb' (by decide)).symm

/-- A write that clears flags, alone in its cycle, changes nothing else (R196). -/
theorem hostCycle_clear (k : BitVec 5) (s : State) :
    hostCycle { clr := k, write := true } s = .next { writeNext s with err := s.err &&& ~~~k } := by
  rw [hostCycle_write rfl rfl (by simp)]
  simp [rxNext_quiet, txNext_idle, nextErr_clear, writeNext, quietNext, clearPulses]

/-- The event of an accepted byte is the one the rules name (R152, R153, R155, R158). -/
theorem rxAccept_ev (cfg : Config.Params) (r : Parser) (b : Byte) : (rxAccept cfg r b).ev = parserEvent cfg r b := by
  unfold parserEvent
  split
  · next hs =>
    split
    · next hb => rw [hb, rxAccept, rxArm_hunt hs]
    · next hb => exact congrArg RxStep.ev (rxAccept_hunt_desync hs hb)
  · next hs =>
    split
    · next hb => rw [hb, rxAccept, rxArm_pre2 hs]
    · next hb2 =>
      by_cases hb1 : b = cfg.pre1
      · subst hb1
        exact congrArg RxStep.ev (rxAccept_pre2_rescan hs hb2)
      · exact congrArg RxStep.ev (rxAccept_pre2_fails hs hb2 hb1)
  · next hs =>
    split
    · next hb => rw [rxAccept, rxArm_len hs hb]
    · next hb => exact congrArg RxStep.ev (rxAccept_len_overflows hs (BitVec.not_le.1 hb))
  · next hs =>
    split
    · next hb => rw [hb, rxAccept, rxArm_csum_accepts hs]
    · next hb => exact congrArg RxStep.ev (rxAccept_csum_rejects hs hb)
  · next hs => rw [rxAccept, rxArm_dir hs]
  · next hs => rw [rxAccept, rxArm_cmd hs]
  · next hs => rw [rxAccept, rxArm_data hs]
  · next hs => simp only [rxAccept, rxArm, hs]

/-- With no host command on the parser its event is that of the byte offered, which HOLD does not take (R151, R159). -/
theorem rxNext_offer_ev (cfg : Config.Params) (r : Parser) (b : Byte) :
    (rxNext cfg r (if r.state = .hold then none else some b) false false).ev = parserEvent cfg r b := by
  by_cases hs : r.state = .hold
  · rw [if_pos hs, rxNext_quiet]
    simp only [parserEvent, hs]
  · rw [if_neg hs, rxNext_byte cfg hs, rxAccept_ev]

/-- The encoder raises nothing unless the host commands it or writes to it (R130). -/
theorem txNext_ev_of_noHost (cfg : Config.Params) (t : Encoder) (sent : Option Byte) :
    (txNext cfg t sent false none).ev = 0 := by
  cases sent with
  | none => rfl
  | some b => exact txArm_ev b t { tx := t }

/-- The flags after a cycle that clears some and commands nothing: those raised in it stay (R120, R273). -/
theorem advance_err_of_clear (k : BitVec 5) (o : Option Byte) (ready : Bool) (out : Outputs) (s : State) :
    (advance { clr := k, write := true } o ready out s).err =
      (s.err &&& ~~~k) ||| (o.map (parserEvent s.cfg s.rx)).getD 0 := by
  cases o with
  | none => simp [advance, nextErr, txNext_ev_of_noHost, rxNext_quiet]
  | some b => simp [advance, nextErr, txNext_ev_of_noHost, rxNext_offer_ev]

/-! ## CTRL -/

/-- A CTRL write without SOFT_RESET commands each engine by its bits (R192). -/
theorem hostCycle_commands {d : Byte} (h7 : d.getLsbD 7 = false) (s : State) :
    hostCycle (opCtrl d) s = .next { writeNext s with
      rx := (rxNext s.cfg s.rx none (d.getLsbD 0) (d.getLsbD 1)).rx
      tx := (txNext s.cfg s.tx none (d.getLsbD 2) none).tx
      err := (s.err ||| (rxNext s.cfg s.rx none (d.getLsbD 0) (d.getLsbD 1)).ev) |||
        (txNext s.cfg s.tx none (d.getLsbD 2) none).ev } := by
  rw [hostCycle_write (h := opCtrl d) rfl rfl h7]
  simp only [opCtrl, BitVec.ofNat_eq_ofNat, nextErr_set]

/-- Without a byte the parser obeys RX_FLUSH, else RX_ACK of a held frame (R119, R160, R161). -/
theorem rxNext_commands (cfg : Config.Params) (r : Parser) (ack flush : Bool) :
    rxNext cfg r none ack flush = {
      rx :=
        if flush = true then
          if inFrame r = true then { r with state := .hunt, result := .aborted, sofQ := false, eofQ := true }
          else { r with state := .hunt, sofQ := false, eofQ := false }
        else if ack = true ∧ r.state = .hold then { r with state := .hunt, sofQ := false, eofQ := false }
        else { r with sofQ := false, eofQ := false }
      ev := if flush = true ∧ inFrame r = true then 0b01000 else 0 } := by
  cases flush with
  | true =>
    rw [rxNext_flush, rxFlush_eq r _ (clearPulses_state r)]
    cases hin : inFrame r <;> simp [clearPulses]
  | false =>
    by_cases hack : ack = true ∧ r.state = .hold
    · obtain ⟨rfl, hs⟩ := hack
      simp [rxNext_ack hs, hs, clearPulses]
    · simp [rxNext, hack, clearPulses]

/-- Without a transfer and a register write the encoder obeys TX_START, where it can (R132). -/
theorem txNext_command (cfg : Config.Params) (t : Encoder) (start : Bool) :
    txNext cfg t none start none = {
      tx :=
        if start = true ∧ t.state = .idle ∧ t.len ≤ cfg.maxPayload then { t with state := .pre1, acc := 0, idx := 0 }
        else t
      ev := if start = true ∧ ¬ (t.state = .idle ∧ t.len ≤ cfg.maxPayload) then 0b10000 else 0 } := by
  rw [txNext_idle]
  cases start with
  | false => simp
  | true =>
    by_cases hgo : t.state = .idle ∧ t.len ≤ cfg.maxPayload
    · simp [txStart_starts hgo.1 hgo.2, hgo]
    · have hrefused : t.state ≠ .idle ∨ cfg.maxPayload < t.len :=
        (not_and_or.1 hgo).imp_right BitVec.not_le.1
      simp [txStart_refused hrefused, raiseTx, errMask, errBit, hgo]

/-! ## The statements -/

/-- Settles O7: a host word is `MemRead` or `MemWrite` of its fields, and a cycle runs it. -/
theorem hostAccessesFollowTheAddressMap : Obligations.HostAccessesFollowTheAddressMap := by
  intro s rest a d
  refine ⟨fun hin => ?_, fun hin => ?_⟩
  · rw [step_host hin, hostTransaction_inputs, hostTransaction_read]
    refine ⟨fun v hv => ?_, fun f hf => ?_⟩
    · rw [hv, hostCycle_read]
    · rw [hf, hostCycle_fault]
  · rw [step_host hin, hostTransaction_write]

/-- Settles O16: the write reaches the flags alone, and an event of the same cycle is added after it. -/
theorem errWriteClearsFlagsButNotNewOnes : Obligations.ErrWriteClearsFlagsButNotNewOnes := by
  intro s d
  rw [← clearMask_eq_setWidth]
  refine ⟨?_, fun rest c hin hrst hhost hw => ?_⟩
  · rw [exec_of_encode_host rfl]
    exact hostCycle_clear (clearMask d) s
  · have hcycle : cycle c { s with inputs := rest } =
        runCycle { clr := clearMask d, write := true } (rxOffer c) c.txReady { s with inputs := rest } := by
      rw [cycle, hrst, hhost, hostTransaction_write]
      rfl
    rw [step_cycle hin, hcycle]
    refine ⟨_, runCycle_advance (h := { clr := clearMask d, write := true }) (rd := 0) rfl hw (by simp), ?_⟩
    rw [advance_err_of_clear]
    cases rxOffer c <;> rfl

/-- Settles O19: SOFT_RESET is decided first, else each engine obeys its commands. -/
theorem ctrlWriteRunsItsCommands : Obligations.CtrlWriteRunsItsCommands := by
  intro s d
  rw [exec_of_encode_host rfl]
  refine ⟨fun h7 => ?_, fun h7 => ?_⟩
  · exact runCycle_softReset (h := opCtrl d) (rd := 0) rfl (by simp) h7
  · exact (hostCycle_commands h7 s).trans (by rw [rxNext_commands, txNext_command])

/-- Settles O10: each bit of the status byte. -/
theorem statusReadsTheLiveState : Obligations.StatusReadsTheLiveState := by
  intro s
  obtain ⟨h3, h7⟩ := statusByte_zeros s
  exact ⟨statusByte s, exec_read rfl rfl, statusByte_frameValid s, statusByte_txBusy s, statusByte_errAny s, h3,
    statusByte_rxState s, h7⟩

/-- Settles O11: each row drives its register, and the three narrow ones are extended with zeros. -/
theorem unmaskedReadsDriveTheirRegister : Obligations.UnmaskedReadsDriveTheirRegister := by
  intro s
  rw [← errByte_eq_setWidth, ← rxResultByte_eq_setWidth, ← txStateByte_eq_setWidth]
  exact ⟨exec_read rfl rfl, exec_read rfl rfl, exec_read rfl rfl, exec_read rfl rfl, exec_read rfl rfl,
    exec_read rfl rfl, exec_read rfl rfl, exec_read rfl rfl, exec_read rfl rfl, exec_read rfl rfl, exec_read rfl rfl⟩

/-- Settles O12: the four rows drive the masked view of their register. -/
theorem receivedFieldsReadOnlyWhileHeld : Obligations.ReceivedFieldsReadOnlyWhileHeld := by
  intro s
  have hdir : exec .rdRxDir s = .next (quietNext (heldByte s s.rx.dir) s) := exec_read rfl rfl
  have hlen : exec .rdRxLen s = .next (quietNext (heldByte s s.rx.len) s) := exec_read rfl rfl
  have hcmd : exec .rdRxCmd s = .next (quietNext (heldByte s s.rx.cmd) s) := exec_read rfl rfl
  have hcsum : exec .rdRxCsum s = .next (quietNext (heldByte s s.rx.csum) s) := exec_read rfl rfl
  rw [hdir, hlen, hcmd, hcsum]
  refine ⟨fun hs => ?_, fun hs => ?_⟩
  · simp only [heldByte_of_hold hs, and_self]
  · simp only [heldByte_of_not_hold hs, and_self]

/-- Settles O13: the row drives `RxView`, which masks everything but the held payload. -/
theorem rxWindowShowsOnlyTheHeldPayload : Obligations.RxWindowShowsOnlyTheHeldPayload := by
  intro s i
  have hread : exec (.rdRxBuf i) s = .next (quietNext (rxView s i) s) := exec_read rfl rfl
  rw [hread]
  refine ⟨fun hs hi b hb => ?_, fun _ _ => ⟨_, rfl⟩, fun h => ?_⟩
  · rw [rxView_of_hold hs hi, rxBufByte_written hb]
  · rw [rxView_masked h]

/-- Settles O14: the three cases of the TX window's view. -/
theorem txWindowReadsTheStoredByte : Obligations.TxWindowReadsTheStoredByte := by
  intro s i
  have hread : exec (.rdTxBuf i) s = hostCycle { rdata := txView s i } s := exec_of_encode_host rfl s
  rw [hread]
  refine ⟨fun hi b hb => ?_, fun hi hb => ?_, fun hi => ?_⟩
  · rw [txView_written hi hb, hostCycle_read]
  · rw [txView_unwritten hi hb, hostCycle_fault]
  · rw [txView_beyond hi, hostCycle_read]

/-- Settles O15: every read-only row is the ignored write, and so is a reserved access. -/
theorem readOnlyWritesAreIgnored : Obligations.ReadOnlyWritesAreIgnored := by
  intro s i d
  have hrow := hostCycle_ignored s
  refine ⟨hrow, hrow, hrow, hrow, hrow, hrow, hrow, hrow, hrow, hrow, hrow, hrow, hrow,
    fun rest a hlo hhi hin => ?_⟩
  obtain ⟨hstep, -⟩ := reservedAccessReadsZeroAndWritesNothing s rest _ hin
  rw [wordAddr_hostWord, wordWrite_hostWord, if_pos rfl] at hstep
  exact hstep ⟨hlo, hhi⟩

/-- Settles O17: both rows are writes of an encoder input. -/
theorem txLenAndCmdAreWrittenOnlyWhileIdle : Obligations.TxLenAndCmdAreWrittenOnlyWhileIdle := fun _ d =>
  ⟨fun hs => ⟨hostCycle_txWrite_idle (w := .len d) hs trivial, hostCycle_txWrite_idle (w := .cmd d) hs trivial⟩,
    fun hb => ⟨hostCycle_txWrite_busy (w := .len d) hb trivial, hostCycle_txWrite_busy (w := .cmd d) hb trivial⟩⟩

/-- Settles O18: the row writes the buffer of an idle encoder within the capacity, by the laws of a write. -/
theorem txWindowIsWrittenOnlyWhileIdle : Obligations.TxWindowIsWrittenOnlyWhileIdle := by
  intro s i d
  refine ⟨fun hi => hostCycle_txWrite_beyond hi d, fun hi hs => ?_, fun hi hb => ?_⟩
  · exact ⟨s.tx.buf.write i.toNat d, hostCycle_txWrite_idle (w := .buf i d) hs hi,
      fun j => Memory.read_write _ _ j d, Memory.write_wf _ _ d⟩
  · exact hostCycle_txWrite_busy (w := .buf i d) hb hi

end Sys2Proof.Machine
end

section
/-! PROOFS. The family 44_wire_commands.md: the payload of a held frame, and the responses a consumer reads from it by the
contracts (R241 to R244, R247, R250). -/

namespace Sys2Proof.Machine

/-! ## `DecodeU32BE` -/

/-- A byte appended below a word is its low digit in base 256. -/
theorem toNat_append_byte {w : Nat} (a : BitVec w) (b : Byte) : (a ++ b).toNat = a.toNat * 2 ^ 8 + b.toNat := by
  rw [BitVec.toNat_append, ← Nat.shiftLeft_add_eq_or_of_lt b.isLt, Nat.shiftLeft_eq]

/-- The first byte is the most significant (R247). -/
theorem decodeU32BE_toNat (b0 b1 b2 b3 : Byte) : (decodeU32BE b0 b1 b2 b3).toNat =
    b0.toNat * 2 ^ 24 + b1.toNat * 2 ^ 16 + b2.toNat * 2 ^ 8 + b3.toNat := by
  rw [decodeU32BE, toNat_append_byte, toNat_append_byte, toNat_append_byte]
  ring

variable {s : State} {p : List Byte} {c n : Byte}

/-! ## The payload of a held frame -/

/-- In HOLD the RX window shows the payload, and 0x00 beyond it (R62). -/
theorem rxView_eq_getD (hs : s.rx.state = .hold) (hold : s.rx.buf.holds p) (hlen : p.length = s.rx.len.toNat)
    (i : Byte) : rxView s i = p.getD i.toNat 0 := by
  by_cases hi : i < s.rx.len
  · have hip : i.toNat < p.length := hlen ▸ hi
    rw [rxView_of_hold hs hi, rxBufByte_written (hold _ hip), List.getD_eq_getElem _ _ hip]
  · have hip : p.length ≤ i.toNat := hlen ▸ Nat.le_of_not_lt hi
    rw [rxView_masked (fun h => hi h.2), List.getD_eq_default _ _ hip]

/-- Read byte by byte through the window, a held frame gives its payload. -/
theorem heldPayload_eq (hs : s.rx.state = .hold) (hold : s.rx.buf.holds p) (hlen : p.length = s.rx.len.toNat) :
    heldPayload s = p := by
  have hbyte : ∀ i < p.length, (BitVec.ofNat 8 i).toNat = i := fun i hi =>
    Nat.mod_eq_of_lt ((hlen ▸ hi).trans s.rx.len.isLt)
  refine List.ext_getElem (by simp [heldPayload, hlen]) fun i _ hi => ?_
  simp only [heldPayload, List.getElem_map, List.getElem_range, rxView_eq_getD hs hold hlen, hbyte i hi,
    List.getD_eq_getElem _ _ hi]

/-! ## The contracts -/

theorem heldCommand_iff :
    (held s && decide (heldByte s s.rx.cmd = c)) = true ↔ s.rx.state = .hold ∧ s.rx.cmd = c := by
  by_cases hs : s.rx.state = .hold
  · simp [held, heldByte_of_hold hs, hs]
  · simp [held, hs]

theorem contractMet_iff : contractMet s c n = true ↔ s.rx.state = .hold ∧ s.rx.cmd = c ∧ s.rx.len = n := by
  rw [contractMet, Bool.and_eq_true, heldCommand_iff, decide_eq_true_iff, and_assoc]
  refine and_congr_right fun hs => ?_
  rw [heldByte_of_hold hs]

/-- GET_CONFIG and its response fields by payload index (R241). -/
theorem readGetConfig_eq (hold : s.rx.buf.holds p) (hlen : p.length = s.rx.len.toNat) :
    readGetConfig s = if s.rx.state = .hold ∧ s.rx.cmd = wireGetConfig ∧ s.rx.len = 2 then
      some (.getConfig (p.getD 0 0) (p.getD 1 0)) else none :=
  if_ctx_congr contractMet_iff (fun ⟨hs, _⟩ => by simp [rxView_eq_getD hs hold hlen]) fun _ => rfl

/-- SET_CONFIG and its response field (R242). -/
theorem readSetConfig_eq (hold : s.rx.buf.holds p) (hlen : p.length = s.rx.len.toNat) :
    readSetConfig s = if s.rx.state = .hold ∧ s.rx.cmd = wireSetConfig ∧ s.rx.len = 1 then
      some (.setConfig (p.getD 0 0)) else none :=
  if_ctx_congr contractMet_iff (fun ⟨hs, _⟩ => by simp [rxView_eq_getD hs hold hlen]) fun _ => rfl

/-- GET_FIX and its response fields by payload index, the coordinates as `DecodeU32BE` (R243, R247, R250). -/
theorem readGetFix_eq (hold : s.rx.buf.holds p) (hlen : p.length = s.rx.len.toNat) :
    readGetFix s = if s.rx.state = .hold ∧ s.rx.cmd = wireGetFix ∧ s.rx.len = 10 then
      some (.getFix (p.getD 0 0) (p.getD 1 0)
        (decodeU32BE (p.getD 2 0) (p.getD 3 0) (p.getD 4 0) (p.getD 5 0))
        (decodeU32BE (p.getD 6 0) (p.getD 7 0) (p.getD 8 0) (p.getD 9 0))) else none :=
  if_ctx_congr contractMet_iff (fun ⟨hs, _⟩ => by simp [rxView_eq_getD hs hold hlen]) fun _ => rfl

/-- ECHO_TEST: the first payload byte and the rest, of any number (R244, U7). -/
theorem readEchoTest_eq (hold : s.rx.buf.holds p) (hlen : p.length = s.rx.len.toNat) :
    readEchoTest s = if s.rx.state = .hold ∧ s.rx.cmd = wireEchoTest ∧ p ≠ [] then
      some (.echoTest (p.getD 0 0) p.tail) else none := by
  by_cases h : s.rx.state = .hold ∧ s.rx.cmd = wireEchoTest
  · obtain ⟨hs, hc⟩ := h
    rw [readEchoTest, if_pos (heldCommand_iff.2 ⟨hs, hc⟩), heldPayload_eq hs hold hlen]
    cases p with
    | nil => simp
    | cons size data => simp [hs, hc]
  · rw [readEchoTest, if_neg (mt heldCommand_iff.1 h), if_neg fun ⟨hs, hc, _⟩ => h ⟨hs, hc⟩]

/-- Settles O35: each row reports its contract's reading, and the contracts read the payload. -/
theorem heldResponsesAreReadByTheirContracts : Obligations.HeldResponsesAreReadByTheirContracts := fun s _ hold hlen =>
  ⟨wireReport wireGetConfig (readGetConfig s) s, wireReport wireSetConfig (readSetConfig s) s,
    wireReport wireGetFix (readGetFix s) s, wireReport wireEchoTest (readEchoTest s) s, _, _, rfl, rfl, rfl, rfl,
    readGetConfig_eq hold hlen, readSetConfig_eq hold hlen, readGetFix_eq hold hlen,
    decodeU32BE_toNat _ _ _ _, decodeU32BE_toNat _ _ _ _, readEchoTest_eq hold hlen⟩

end Sys2Proof.Machine
end

section
/-! PROOFS. The family 60_exceptions.md: an error flag stays until a write of 1 to it in ERR or a reset, and a frame's
result until the next frame end or a reset (R271). -/

namespace Sys2Proof.Machine

variable {cfg : Config.Params} {r r' : Parser} {s s' : State} {c : CycleIn}

/-! ## What clears a flag -/

/-- Events only raise flags, so a flag that is gone was one the host clears (R120, R271). -/
theorem clr_of_nextErr_clears {err clr evRx evTx : BitVec 5} {k : Nat} (hset : err.getLsbD k = true)
    (hgone : (nextErr err clr evRx evTx).getLsbD k = false) : clr.getLsbD k = true := by
  have hk : k < 5 := BitVec.lt_of_getLsbD hset
  simp only [nextErr, BitVec.getLsbD_or, Bool.or_eq_false_iff] at hgone
  obtain ⟨⟨hkept, -⟩, -⟩ := hgone
  simpa [hset, hk] using hkept

/-- A memory write clears the flags of its data at 0x002, and none elsewhere (R191, R196). -/
theorem memWrite_clr (a : HostAddr) (d : Byte) : (memWrite a d).clr = if a = 0x002 then clearMask d else 0 := by
  by_cases ha : a = 0x002
  · subst ha
    rfl
  · simp only [memWrite, if_neg ha]
    repeat' split
    all_goals rfl

/-- A host transaction that clears a flag is a write of 1 to it in ERR (R196). -/
theorem errWrite_of_clr {k : Nat} (h : (hostTransaction c.host s).clr.getLsbD k = true) :
    ∃ w, c.host = some w ∧ wordWrite w = true ∧ wordAddr w = 0x002 ∧ (wordData w).getLsbD k = true := by
  cases hc : c.host with
  | none =>
    rw [hc] at h
    exact absurd h (by simp [hostTransaction, opNop])
  | some w =>
    rw [hc, hostTransaction_word] at h
    cases hw : wordWrite w with
    | false => simp [hw] at h
    | true =>
      rw [if_pos hw, memWrite_clr] at h
      split at h
      · next ha =>
        rw [clearMask_eq_setWidth, BitVec.getLsbD_setWidth, Bool.and_eq_true] at h
        exact ⟨w, rfl, hw, ha, h.2⟩
      · simp at h

/-- Without a reset a flag is cleared only by the cycle's host transaction (R271). -/
theorem clr_of_cycle_clears {k : Nat} (hn : noReset c) (h : cycle c s = .next s') (hset : s.err.getLsbD k = true)
    (hgone : s'.err.getLsbD k = false) : (hostTransaction c.host s).clr.getLsbD k = true := by
  obtain ⟨-, rd, -, rfl⟩ := cycle_noReset hn h
  rw [advance_err] at hgone
  exact clr_of_nextErr_clears hset hgone

/-! ## What changes the result -/

/-- A move of the parser sets `rx_result` only where it ends a frame (R32, R164). -/
theorem ParserMove.result_eq_or_eofQ (hm : ParserMove cfg r r') : r'.result = r.result ∨ r'.eofQ = true := by
  cases hm with
  | stay | drop | scan | start | direction | length | command | payload => exact .inl rfl
  | abort | overflow | accept | reject => exact .inr rfl

/-! ## The statement -/

/-- Settles O43: a reset is one of the causes, and without one the host clears the flag and the frame end sets the
result. -/
theorem flagsAreSticky : Obligations.FlagsAreSticky := by
  intro c s t h
  rcases cycle_next h with ⟨hrst, -⟩ | ⟨-, h7, -⟩ | ⟨hn, -, -⟩
  · exact ⟨fun _ _ _ => .inl hrst, fun _ => .inl hrst⟩
  · exact ⟨fun _ _ _ => .inr (.inl h7), fun _ => .inr (.inl h7)⟩
  · exact ⟨fun _ hset hgone => .inr (.inr (errWrite_of_clr (clr_of_cycle_clears hn h hset hgone))),
      fun hne => .inr (.inr ((cycle_parserMove hn h).result_eq_or_eofQ.resolve_left hne))⟩

end Sys2Proof.Machine
end

section
/-! PROOFS. The family 70_reset_and_hazards.md: the reset table (R291 to R293), the cycle of a hard reset and the first one
after it (R290, R294), the parameters (R296), and the number of transfers of a frame (R306). -/

namespace Sys2Proof.Machine

variable {c : CycleIn} {s s' : State} {p : List Byte}

/-! ## The reset table -/

/-- Every register has its value of the reset table; the buffers hold what they hold (R291, both columns). -/
structure AtReset (s : State) : Prop where
  rx : s.rx = { Parser.reset with buf := s.rx.buf }
  tx : s.tx = { Encoder.reset with buf := s.tx.buf }
  err : s.err = 0

namespace AtReset

theorem rxState (h : AtReset s) : s.rx.state = .hunt := congrArg Parser.state h.rx

theorem rxResult (h : AtReset s) : s.rx.result = .none := congrArg Parser.result h.rx

theorem txState (h : AtReset s) : s.tx.state = .idle := congrArg Encoder.state h.tx

theorem not_hold (h : AtReset s) : s.rx.state ≠ .hold := by
  rw [h.rxState]
  exact nofun

theorem statusByte_eq (h : AtReset s) : statusByte s = 0 := by
  simp only [statusByte, held, h.rxState, h.txState, h.err]
  rfl

theorem errByte_eq (h : AtReset s) : errByte s = 0 := by
  rw [errByte, h.err]
  rfl

theorem rxResultByte_eq (h : AtReset s) : rxResultByte s = 0 := by
  rw [rxResultByte, h.rxResult]
  rfl

theorem txStateByte_eq (h : AtReset s) : txStateByte s = 0 := by
  rw [txStateByte, h.txState]
  rfl

/-- The host reads 0x00 in every register but the four ID registers (R190, R291). -/
theorem memRead_register (h : AtReset s) {a : HostAddr} (ha : a ≤ 0x00B) : memRead a s = .ok 0 := by
  have hcases : (0x004 ≤ a ∧ a ≤ 0x007) ∨ a = 0x000 ∨ a = 0x001 ∨ a = 0x002 ∨ a = 0x003 ∨ a = 0x008 ∨ a = 0x009 ∨
      a = 0x00A ∨ a = 0x00B := by bv_omega
  rcases hcases with ⟨hlo, hhi⟩ | rfl | rfl | rfl | rfl | rfl | rfl | rfl | rfl
  · exact memRead_rxField_of_not_hold h.not_hold hlo hhi
  · rfl
  · exact congrArg Except.ok h.statusByte_eq
  · exact congrArg Except.ok h.errByte_eq
  · exact congrArg Except.ok h.rxResultByte_eq
  · exact congrArg (fun t => Except.ok t.len) h.tx
  · exact congrArg (fun t => Except.ok t.cmd) h.tx
  · exact congrArg (fun t => Except.ok t.csum) h.tx
  · exact congrArg Except.ok h.txStateByte_eq

/-- The ports reflect the reset state: ready 1, valid 0, all levels and pulses 0 (R294). -/
theorem ports_eq (h : AtReset s) (rd : Byte) : ports rd s = { Outputs.reset with hRdata := rd } := by
  have hsof : s.rx.sofQ = false := congrArg Parser.sofQ h.rx
  have heof : s.rx.eofQ = false := congrArg Parser.eofQ h.rx
  simp [ports, held, h.rxState, h.txState, h.err, hsof, heof, Outputs.reset]

end AtReset

/-! ## The cycle of a hard reset -/

/-- A cycle with `rst` looks at no other input (R290, R294). -/
theorem cycle_hardReset (hr : c.rst = true) (s : State) : cycle c s = .next { hardReset s with out := resetPorts s } :=
  if_pos hr

/-- More reset cycles find the registers at their reset values and leave them there, by induction over the cycles (R294). -/
theorem runCycles_hardReset {cs : List CycleIn} (hcs : ∀ x ∈ cs, x.rst = true) (hrx : s.rx = .reset) (htx : s.tx = .reset)
    (herr : s.err = 0) :
    ∃ t, runCycles cs s = .next t ∧ t.rx = s.rx ∧ t.tx = s.tx ∧ t.err = s.err ∧ t.cfg = s.cfg := by
  induction cs generalizing s with
  | nil => exact ⟨s, rfl, rfl, rfl, rfl, rfl⟩
  | cons x xs ih =>
    obtain ⟨hx, hxs⟩ := List.forall_mem_cons.1 hcs
    obtain ⟨t, hrun, hrx', htx', herr', hcfg'⟩ := ih (s := { hardReset s with out := resetPorts s }) hxs rfl rfl rfl
    exact ⟨t, (runCycles_cons_of_next (cycle_hardReset hx s) xs).trans hrun, hrx'.trans hrx.symm, htx'.trans htx.symm,
      herr'.trans herr.symm, hcfg'⟩

/-! ## The transfers of a frame -/

/-- TX_START alone in its cycle is no fault (R132). -/
theorem cycle_lineStart_next (s : State) : ∃ u, cycle lineStart s = .next u :=
  ⟨_, (exec_of_encode_host (i := .ctrlTxStart 0 0) rfl s).symm.trans (exec_ctrlTxStart 0 s)⟩

/-- Every byte of a frame being sent is written, so its transfer is no fault (U3). -/
theorem Sending.written (h : Sending p s) : sendsUnwritten s = false := by
  by_cases hs : s.tx.state = .data
  · simp [sendsUnwritten, h.holds _ (h.idx_lt hs)]
  · exact sendsUnwritten_of_not_data hs

theorem Sending.cycle_lineTxr_next (h : Sending p s) : ∃ u, cycle lineTxr s = .next u :=
  ⟨_, runCycle_transfer h.busy h.written⟩

theorem noReset_lineTxr : noReset lineTxr := ⟨rfl, rfl⟩

theorem forall_noReset_lineTxr {k : Nat} : ∀ x ∈ List.replicate k lineTxr, noReset x := fun _ hx =>
  List.eq_of_mem_replicate hx ▸ noReset_lineTxr

theorem readyCycles_lineTxr (k : Nat) : readyCycles (List.replicate k lineTxr) = k := by
  simp [readyCycles, lineTxr]

/-- The sink may take all the bytes of the frame that are left, by induction over their number. -/
theorem Sending.runCycles_lineTxr {k : Nat} (h : Sending p s) (hk : s.tx.position + k ≤ 6 + p.length) :
    ∃ t, runCycles (List.replicate k lineTxr) s = .next t := by
  induction k generalizing s with
  | zero => exact ⟨s, rfl⟩
  | succ k ih =>
    obtain ⟨u, hu⟩ := h.cycle_lineTxr_next
    rw [List.replicate_succ, runCycles_cons_of_next hu]
    by_cases hlast : k = 0
    · exact ⟨u, by rw [hlast]; rfl⟩
    · have hready : lineTxr.txReady.toNat = 1 := rfl
      obtain ⟨hpos, -⟩ := h.after_cycle noReset_lineTxr hu
      exact ih (h.of_position noReset_lineTxr hu (by omega)) (by omega)

/-- With the sink always ready, the encoder is busy until the last byte of the frame is taken (R306). -/
theorem Sending.idle_iff {k : Nat} (h : Sending p s) (h0 : s.tx.position = 0) (hk : k ≤ 6 + p.length)
    (hrun : runCycles (List.replicate k lineTxr) s = .next s') : s'.tx.state = .idle ↔ k = 6 + p.length := by
  have hready := readyCycles_lineTxr k
  constructor
  · refine fun hidle => by_contra fun hne => ?_
    obtain ⟨hsend, -⟩ := h.after_run forall_noReset_lineTxr (by omega) hrun
    exact hsend.busy hidle
  · intro hall
    have hlast : (List.replicate k lineTxr).getLast?.map CycleIn.txReady = some true := by
      rw [List.getLast?_replicate, if_neg (by omega)]
      rfl
    obtain ⟨hidle, -⟩ := h.finishes forall_noReset_lineTxr (by omega) hlast hrun
    exact hidle

/-- A held frame takes no more bytes, so bytes that leave none held had none held on the way (R159). -/
theorem foldl_fed_take_not_hold {bs : List Byte} (h : (bs.foldl State.fed s).rx.state ≠ .hold) (k : Nat) :
    ((bs.take k).foldl State.fed s).rx.state ≠ .hold := fun hhold => by
  rw [← List.take_append_drop k bs, List.foldl_append] at h
  exact h (foldl_fed_hold hhold _)

/-- No proper prefix of a frame is held, since after the payload the checksum byte is still awaited (R158). -/
theorem foldl_fed_prefix_not_hold (hs : s.rx.state = .hunt) (hfits : p.length ≤ s.cfg.maxPayload.toNat) (b : Byte) {k : Nat}
    (hk : k < 6 + p.length) : (((encodeFrame s.cfg b p).take k).foldl State.fed s).rx.state ≠ .hold := by
  obtain ⟨hcol, -⟩ := collecting_of_frame (.inl ⟨hs, rfl⟩) hfits s.cfg.dirTx b
  rw [encodeFrame, wireFrame, List.take_append_of_le_length (by simp; omega)]
  exact foldl_fed_take_not_hold hcol.not_hold k

/-- Fed a byte a cycle, the parser holds the frame after the last byte and not before (R306). -/
theorem runCycles_feed_prefix (hs : s.rx.state = .hunt) (hfits : p.length ≤ s.cfg.maxPayload.toNat) (b : Byte) {k : Nat}
    (hk : k ≤ 6 + p.length) : ∃ t, runCycles (feed ((encodeFrame s.cfg b p).take k)) s = .next t ∧
      (t.rx.state = .hold ↔ k = 6 + p.length) := by
  by_cases hall : k = 6 + p.length
  · rw [List.take_of_length_le (by rw [encodeFrame_length, hall])]
    obtain ⟨t, hrun, hhold, -⟩ := runCycles_feed_wireFrame (dir := s.cfg.dirTx) (b := b) hs hfits
    exact ⟨t, hrun, iff_of_true hhold hall⟩
  · exact ⟨_, runCycles_feed _ s, iff_of_false (foldl_fed_prefix_not_hold hs hfits b (by omega)) hall⟩

/-! ## The statements -/

/-- Settles O37: the reset cycle looks at `rst` alone, and leaves the registers where another one does. -/
theorem hardResetIgnoresItsCycle : Obligations.HardResetIgnoresItsCycle := by
  intro s t c hr h
  obtain rfl := Host.Outcome.next.inj ((cycle_hardReset hr s).symm.trans h)
  refine ⟨rfl, (cycle_hardReset hr s).trans (cycle_hardReset rfl s).symm, fun cs hcs => ?_, fun c' u hr' hu => ?_⟩
  · exact runCycles_hardReset hcs rfl rfl rfl
  · have hreset : AtReset { hardReset s with out := resetPorts s } := ⟨rfl, rfl, rfl⟩
    rcases cycle_out hu with ⟨hrst, -⟩ | ⟨-, rd, -, hout⟩
    · cases hr'.symm.trans hrst
    · rw [hout, hreset.ports_eq]
      exact ⟨rfl, rfl, rfl, rfl, rfl, rfl, rfl, rfl⟩

/-- Settles O55: a frame being sent goes on up to its last byte, and a frame being received is not held before it. -/
theorem frameTakesSixPlusLengthCycles : Obligations.FrameTakesSixPlusLengthCycles := by
  intro s p k hfits hk
  refine ⟨fun hs hlen hold => ?_, fun hs b => runCycles_feed_prefix hs hfits b hk⟩
  obtain ⟨u, hu⟩ := cycle_lineStart_next s
  obtain ⟨hsend, hpos, -, -⟩ := sending_of_start hs hlen hfits hold (c := lineStart) ⟨rfl, rfl⟩ rfl hu
  obtain ⟨t, hrun⟩ := hsend.runCycles_lineTxr (k := k) (by omega)
  exact ⟨t, (runCycles_cons_of_next hu _).trans hrun, hsend.idle_iff hpos hk hrun⟩

/-- Settles O36: both resets write the table, and what the host reads is a function of the registers in it. -/
theorem resetTableHolds : Obligations.ResetTableHolds := by
  intro s c lo
  refine ⟨fun hr => ⟨_, cycle_hardReset hr s, rfl, rfl, rfl, rfl, rfl⟩, rfl, rfl, rfl, ?_, fun hrx htx herr => ?_⟩
  · exact ⟨_, (exec_of_encode_host rfl s).trans (runCycle_softResetWrite lo none (by simp)), rfl, rfl, rfl⟩
  · have hreset : AtReset s := ⟨hrx, htx, herr⟩
    exact ⟨fun _ => hreset.memRead_register, fun _ => memRead_rxWindow_of_not_hold hreset.not_hold, rfl, rfl, rfl, rfl⟩

/-- Settles O41: no cycle changes the parameters, nor does a classification. -/
theorem noStepChangesTheParameters : Obligations.NoStepChangesTheParameters := by
  intro s t h
  obtain ⟨ins, ⟨c, hc⟩ | ⟨b, p, rfl⟩⟩ := step_cases h
  · have hcfg := cycle_cfg hc
    exact hcfg
  · rfl

end Sys2Proof.Machine
end
